-- ==== Sys2Proof/Word.lean ====
section
/-! DEFINITION. Word.lean: the two data widths that TPC moves whole. -/

namespace Sys2Proof

/-- One byte: a cell of the packet buffer, of a record or of a stream (spec/20_memory.md R35, R42). -/
abbrev Byte := BitVec 8

/-- One word of the command port: a command word or a response word (spec/30_encoding.md R53,
spec/10_state.md R12; CMD_W of spec/00_scope.md R5). -/
abbrev Word := BitVec 32

end Sys2Proof
end

