-- ==== Sys2Proof/Syntax.lean ====
section
/-! DEFINITION. Syntax.lean: the command set, one constructor per row of spec/opcode_table.json
(spec/30_encoding.md R63). Operands are the unsigned fields of the word at their full width (R69). -/

namespace Sys2Proof

/-- The 24 commands of R63, in the table's order. -/
inductive Instr where
  /-- NOP (R104). -/
  | nop
  /-- REGRD r (R105). -/
  | regrd (r : BitVec 8)
  /-- REGWR r, val (R106). -/
  | regwr (r : BitVec 8) (val : BitVec 16)
  /-- WCLR (R108). -/
  | wclr
  /-- ACCSET imm24 (R109). -/
  | accset (imm24 : BitVec 24)
  /-- H84ENC imm4 (R76). -/
  | h84enc (imm4 : BitVec 4)
  /-- H84DEC imm8 (R77). -/
  | h84dec (imm8 : BitVec 8)
  /-- H24ENC imm18 (R91). -/
  | h24enc (imm18 : BitVec 18)
  /-- H24DEC imm24 (R92). -/
  | h24dec (imm24 : BitVec 24)
  /-- PARENC imm7 (R99). -/
  | parenc (imm7 : BitVec 7)
  /-- PARDEC imm8 (R100). -/
  | pardec (imm8 : BitVec 8)
  /-- BITREV imm8 (R102). -/
  | bitrev (imm8 : BitVec 8)
  /-- PBWR idx, val (R110). -/
  | pbwr (idx : BitVec 8) (val : BitVec 8)
  /-- PBRD idx (R111). -/
  | pbrd (idx : BitVec 8)
  /-- PBCLR (R112). -/
  | pbclr
  /-- FDWR idx, byte, lsb, w, off [, LAST], fields in the order of the word (R118, R58). -/
  | fdwr (idx : BitVec 6) (last : BitVec 1) (byte : BitVec 6) (lsb : BitVec 3) (wm1 : BitVec 3) (off : BitVec 5)
  /-- FDCLR (R119). -/
  | fdclr
  /-- EXTRACT start (R121). -/
  | extract (start : BitVec 6)
  /-- INSERT start (R122). -/
  | insert (start : BitVec 6)
  /-- TRIPGET k (R130). -/
  | tripget (k : BitVec 4)
  /-- TRIPPUT k, imm18 (R131). -/
  | tripput (k : BitVec 4) (imm18 : BitVec 18)
  /-- SER tsel (R149). -/
  | ser (tsel : BitVec 3)
  /-- DESER tsel (R151). -/
  | deser (tsel : BitVec 3)
  /-- SDROP (R162). -/
  | sdrop
deriving DecidableEq, Repr

end Sys2Proof
end

