-- ==== Sys2Proof/WellFormed.lean ====
section
/-! DEFINITION. WellFormed.lean: which terms of Instr are well-formed commands. The operand fields have the
width of the word's fields, so the one check is the reserved operand value of spec/30_encoding.md R66. -/

namespace Sys2Proof

/-- `tsel` 5, 6 and 7 are the reserved operand values, and there are no others (R61, R66). -/
def tselLegal (tsel : BitVec 3) : Bool := tsel.toNat < 5

/-- A well-formed command in the sense of R62: every operand has a value that decoding accepts. Range checks
and the geometry of FDWR are part of the commands' own rules (R62, R66) and are not decided here. -/
def Instr.wellFormed : Instr → Bool
  | .nop => true
  | .regrd _ => true
  | .regwr _ _ => true
  | .wclr => true
  | .accset _ => true
  | .h84enc _ => true
  | .h84dec _ => true
  | .h24enc _ => true
  | .h24dec _ => true
  | .parenc _ => true
  | .pardec _ => true
  | .bitrev _ => true
  | .pbwr _ _ => true
  | .pbrd _ => true
  | .pbclr => true
  | .fdwr _ _ _ _ _ _ => true
  | .fdclr => true
  | .extract _ => true
  | .insert _ => true
  | .tripget _ => true
  | .tripput _ _ => true
  | .ser tsel => tselLegal tsel
  | .deser tsel => tselLegal tsel
  | .sdrop => true

end Sys2Proof
end

