-- ==== Sys2Proof/Decode.lean ====
section
/-! DEFINITION. Decode.lean: from a 32-bit command word to a command or to the decoding fault that refuses it
(spec/30_encoding.md R62), and the encoder, both written from the formats of R54 to R61 and the map of R63. -/

namespace Sys2Proof

/-- What decoding a word gives: R62 makes every one of the 2^32 words exactly one of these three. -/
inductive Decoded where
  /-- a well-formed command -/
  | ok (i : Instr)
  /-- the opcode is none of the 24 (R62 step 1, R64): the command is the fault E_OPC -/
  | eOpc
  /-- a reserved payload bit is 1 or an operand has a reserved value (R62 steps 2 and 3, R65, R66): the
  command is the fault E_OPER -/
  | eOper
deriving DecidableEq, Repr

/-- The opcode `op = W[31:24]` (R53). -/
def opcodeOf (w : Word) : BitVec 8 := w.extractLsb' 24 8

/-- Step 2 of R62 for one format: `reserved` is the part of the payload that the format assigns to no field,
and a 1 in it is E_OPER (R65). -/
def unreserved {n : Nat} (reserved : BitVec n) (d : Decoded) : Decoded :=
  if reserved = 0 then d else .eOper

/-- Step 3 of R62: the reserved values of `tsel` are E_OPER (R66). -/
def withTsel (tsel : BitVec 3) (i : Instr) : Decoded :=
  if tselLegal tsel then .ok i else .eOper

/-- How a decoder reads a word (R62): the opcode's row of R63, then the row's reserved bits, then its reserved
operand values. -/
def decode (w : Word) : Decoded :=
  let op := opcodeOf w
  if op = 0x00 then unreserved (w.extractLsb' 0 24) (.ok .nop)
  else if op = 0x01 then unreserved (w.extractLsb' 0 16) (.ok (.regrd (w.extractLsb' 16 8)))
  else if op = 0x02 then .ok (.regwr (w.extractLsb' 16 8) (w.extractLsb' 0 16))
  else if op = 0x03 then unreserved (w.extractLsb' 0 24) (.ok .wclr)
  else if op = 0x04 then .ok (.accset (w.extractLsb' 0 24))
  else if op = 0x10 then unreserved (w.extractLsb' 4 20) (.ok (.h84enc (w.extractLsb' 0 4)))
  else if op = 0x11 then unreserved (w.extractLsb' 8 16) (.ok (.h84dec (w.extractLsb' 0 8)))
  else if op = 0x12 then unreserved (w.extractLsb' 18 6) (.ok (.h24enc (w.extractLsb' 0 18)))
  else if op = 0x13 then .ok (.h24dec (w.extractLsb' 0 24))
  else if op = 0x14 then unreserved (w.extractLsb' 7 17) (.ok (.parenc (w.extractLsb' 0 7)))
  else if op = 0x15 then unreserved (w.extractLsb' 8 16) (.ok (.pardec (w.extractLsb' 0 8)))
  else if op = 0x16 then unreserved (w.extractLsb' 8 16) (.ok (.bitrev (w.extractLsb' 0 8)))
  else if op = 0x20 then unreserved (w.extractLsb' 16 8) (.ok (.pbwr (w.extractLsb' 8 8) (w.extractLsb' 0 8)))
  else if op = 0x21 then
    unreserved (w.extractLsb' 16 8) (unreserved (w.extractLsb' 0 8) (.ok (.pbrd (w.extractLsb' 8 8))))
  else if op = 0x22 then unreserved (w.extractLsb' 0 24) (.ok .pbclr)
  else if op = 0x30 then
    .ok (.fdwr (w.extractLsb' 18 6) (w.extractLsb' 17 1) (w.extractLsb' 11 6) (w.extractLsb' 8 3)
      (w.extractLsb' 5 3) (w.extractLsb' 0 5))
  else if op = 0x31 then unreserved (w.extractLsb' 0 24) (.ok .fdclr)
  else if op = 0x32 then unreserved (w.extractLsb' 6 18) (.ok (.extract (w.extractLsb' 0 6)))
  else if op = 0x33 then unreserved (w.extractLsb' 6 18) (.ok (.insert (w.extractLsb' 0 6)))
  else if op = 0x34 then
    unreserved (w.extractLsb' 22 2) (unreserved (w.extractLsb' 0 18) (.ok (.tripget (w.extractLsb' 18 4))))
  else if op = 0x35 then
    unreserved (w.extractLsb' 22 2) (.ok (.tripput (w.extractLsb' 18 4) (w.extractLsb' 0 18)))
  else if op = 0x40 then
    unreserved (w.extractLsb' 3 21) (withTsel (w.extractLsb' 0 3) (.ser (w.extractLsb' 0 3)))
  else if op = 0x41 then
    unreserved (w.extractLsb' 3 21) (withTsel (w.extractLsb' 0 3) (.deser (w.extractLsb' 0 3)))
  else if op = 0x42 then unreserved (w.extractLsb' 0 24) (.ok .sdrop)
  else .eOpc

/-- A field in place: the bits of `x` from bit `lo` of the word up, every other bit 0 (R69). -/
def fieldAt {n : Nat} (x : BitVec n) (lo : Nat) : Word := x.setWidth 32 <<< lo

/-- The word of a command, from the formats of R54 to R61 and the opcodes of R63: the opcode in bits 31:24, each
operand in its field, every reserved bit 0. -/
def encode : Instr → Word
  | .nop => fieldAt 0x00#8 24
  | .regrd r => fieldAt 0x01#8 24 ||| fieldAt r 16
  | .regwr r val => fieldAt 0x02#8 24 ||| fieldAt r 16 ||| fieldAt val 0
  | .wclr => fieldAt 0x03#8 24
  | .accset imm24 => fieldAt 0x04#8 24 ||| fieldAt imm24 0
  | .h84enc imm4 => fieldAt 0x10#8 24 ||| fieldAt imm4 0
  | .h84dec imm8 => fieldAt 0x11#8 24 ||| fieldAt imm8 0
  | .h24enc imm18 => fieldAt 0x12#8 24 ||| fieldAt imm18 0
  | .h24dec imm24 => fieldAt 0x13#8 24 ||| fieldAt imm24 0
  | .parenc imm7 => fieldAt 0x14#8 24 ||| fieldAt imm7 0
  | .pardec imm8 => fieldAt 0x15#8 24 ||| fieldAt imm8 0
  | .bitrev imm8 => fieldAt 0x16#8 24 ||| fieldAt imm8 0
  | .pbwr idx val => fieldAt 0x20#8 24 ||| fieldAt idx 8 ||| fieldAt val 0
  | .pbrd idx => fieldAt 0x21#8 24 ||| fieldAt idx 8
  | .pbclr => fieldAt 0x22#8 24
  | .fdwr idx last byte lsb wm1 off =>
    fieldAt 0x30#8 24 ||| fieldAt idx 18 ||| fieldAt last 17 ||| fieldAt byte 11 ||| fieldAt lsb 8 ||| fieldAt wm1 5 ||| fieldAt off 0
  | .fdclr => fieldAt 0x31#8 24
  | .extract start => fieldAt 0x32#8 24 ||| fieldAt start 0
  | .insert start => fieldAt 0x33#8 24 ||| fieldAt start 0
  | .tripget k => fieldAt 0x34#8 24 ||| fieldAt k 18
  | .tripput k imm18 => fieldAt 0x35#8 24 ||| fieldAt k 18 ||| fieldAt imm18 0
  | .ser tsel => fieldAt 0x40#8 24 ||| fieldAt tsel 0
  | .deser tsel => fieldAt 0x41#8 24 ||| fieldAt tsel 0
  | .sdrop => fieldAt 0x42#8 24

/-- The opcode of a command (R63). -/
def Instr.opcode : Instr → BitVec 8
  | .nop => 0x00
  | .regrd _ => 0x01
  | .regwr _ _ => 0x02
  | .wclr => 0x03
  | .accset _ => 0x04
  | .h84enc _ => 0x10
  | .h84dec _ => 0x11
  | .h24enc _ => 0x12
  | .h24dec _ => 0x13
  | .parenc _ => 0x14
  | .pardec _ => 0x15
  | .bitrev _ => 0x16
  | .pbwr _ _ => 0x20
  | .pbrd _ => 0x21
  | .pbclr => 0x22
  | .fdwr _ _ _ _ _ _ => 0x30
  | .fdclr => 0x31
  | .extract _ => 0x32
  | .insert _ => 0x33
  | .tripget _ => 0x34
  | .tripput _ _ => 0x35
  | .ser _ => 0x40
  | .deser _ => 0x41
  | .sdrop => 0x42

/-- The `mask` column of R63: a 1 in every opcode bit and every reserved bit of the command's row. -/
def Instr.mask : Instr → Word
  | .nop => 0xFFFFFFFF
  | .regrd _ => 0xFF00FFFF
  | .regwr _ _ => 0xFF000000
  | .wclr => 0xFFFFFFFF
  | .accset _ => 0xFF000000
  | .h84enc _ => 0xFFFFFFF0
  | .h84dec _ => 0xFFFFFF00
  | .h24enc _ => 0xFFFC0000
  | .h24dec _ => 0xFF000000
  | .parenc _ => 0xFFFFFF80
  | .pardec _ => 0xFFFFFF00
  | .bitrev _ => 0xFFFFFF00
  | .pbwr _ _ => 0xFFFF0000
  | .pbrd _ => 0xFFFF00FF
  | .pbclr => 0xFFFFFFFF
  | .fdwr _ _ _ _ _ _ => 0xFF000000
  | .fdclr => 0xFFFFFFFF
  | .extract _ => 0xFFFFFFC0
  | .insert _ => 0xFFFFFFC0
  | .tripget _ => 0xFFC3FFFF
  | .tripput _ _ => 0xFFC00000
  | .ser _ => 0xFFFFFFF8
  | .deser _ => 0xFFFFFFF8
  | .sdrop => 0xFFFFFFFF

/-- The word that a table row's bits give the command port: the row has one word of 32 bits (R53), and every
bit above `nbits` is 0. -/
def tableWord (nbits w : Nat) : Word := BitVec.ofNat 32 (w % 2 ^ nbits)

/-- The command the decoder reads from an instruction whose `nbits` bits are `w`, numbered as
spec/opcode_table.json numbers them; none where it refuses. The command port takes a whole 32-bit word (R41 a),
so there is no byte order to lay out. -/
def decodeTableWord (nbits w : Nat) : Option Instr :=
  match decode (tableWord nbits w) with
  | .ok i => some i
  | .eOpc => none
  | .eOper => none

end Sys2Proof
end

