-- ==== Sys2Proof/Config.lean ====
section
/-! DEFINITION. Config.lean: the parameters of the block (spec/00_scope.md R5) that are sizes, widths and places, and
the one parameter that the spec leaves open. The tables, packings, neutral values and reserved values of R5 are named
definitions of Machine/Hamming84.lean, Machine/Hamming2418.lean, Machine/Operands.lean and Machine/Serializer.lean, and
CMD_W is the width of `Word`; log entry 10 lists which definition holds which parameter. -/

namespace Sys2Proof.Config

/-- PB_LEN: bytes in the packet buffer (R5, R14). -/
@[simp] abbrev pbLen : Nat := 40

/-- REC_LEN: bytes in a raw packet-stream record (R5, R135). -/
@[simp] abbrev recLen : Nat := 42

/-- PREFIX_LEN: bytes of synchronization prefix in capture-wrapper framing (R5, R148). -/
@[simp] abbrev prefixLen : Nat := 3

/-- N_TRIPLETS: triplets in a designation packet (R5, R126). -/
@[simp] abbrev nTriplets : Nat := 13

/-- N_LINKS: link records in an X/27 packet of designation code 0 to 3 (R5, R146). -/
@[simp] abbrev nLinks : Nat := 6

/-- LINK_LEN: bytes in a link record (R5, R146). -/
@[simp] abbrev linkLen : Nat := 6

/-- FD_LEN: entries of field-descriptor memory (R5, R15). -/
@[simp] abbrev fdLen : Nat := 64

/-- ACC_W: bits of the accumulator and of the widest field (R5, R11). -/
@[simp] abbrev accW : Nat := 24

/-- WCNT_W: bits of the saturating warning counter (R5, R23). -/
@[simp] abbrev wcntW : Nat := 16

/-- PARITY_BIT: the bit of a byte that carries the odd-parity bit (R5, R96). -/
@[simp] abbrev parityBit : Nat := 7

/-- LINK_TAIL, first half: the payload byte after the six links, coded Hamming 8/4 (R5, R147). -/
@[simp] abbrev linkTailNibble : Nat := 37

/-- LINK_TAIL, second half: the first of the last two payload bytes of a LINK record, which pass unchanged (R5,
R147). -/
@[simp] abbrev linkTailPlain : Nat := 38

/-- SYNC_PREFIX: the three bytes that capture-wrapper framing puts before a record. OPEN in the spec
(R148, spec/92_eei_decisions.md D16), so it is an uninterpreted constant: no value of it can be proved.
Log entry 4. -/
opaque syncPrefix : Fin 3 → Byte

end Sys2Proof.Config
end

