-- ==== Sys2Proof/Machine/State.lean ====
section
/-! DEFINITION. State.lean: the whole architectural state of TPC (spec/10_state.md R10) as plain data, the
host's side of the three ports (spec/20_memory.md R41), the reasons a step can stop, and the state after reset
(spec/10_state.md R33, spec/70_reset_and_hazards.md R187). -/

namespace Sys2Proof.Machine

/-- Byte memory: the cells that differ from what an unlisted address reads as, addresses strictly rising.
TPC has one memory of bytes, the packet buffer PB (R14, R34). -/
abbrev Memory := List Host.Cell

/-- One entry of field-descriptor memory (R15): the VALID bit and the 18-bit body
`LAST[17], BYTE[16:11], LSB[10:8], WM1[7:5], OFF[4:0]`. -/
structure FdEntry where
  /-- the VALID bit -/
  valid : Bool
  /-- the body; it is only ever read through an entry whose VALID bit is 1 (R15, R120) -/
  body : BitVec 18
deriving DecidableEq, Repr

/-- One thing the host does to the block (R41, R186); there is no other (R184). -/
inductive HostEvent where
  /-- present a command word at the command port (R41 a) -/
  | command (w : Word)
  /-- append one byte to the tail of SIN (R41 b) -/
  | append (b : Byte)
  /-- apply the reset input between two commands (R186) -/
  | reset
deriving DecidableEq, Repr

/-- The state: every item of R10, then the two fields of the model's own (`port`, `responses`). -/
structure State where
  /-- PB, the packet buffer, 40 cells of 8 bits (R14) -/
  pb : Memory
  /-- FD, field-descriptor memory, 64 entries (R15) -/
  fd : Vector FdEntry Config.fdLen
  /-- ACC, the accumulator of the field unit, register 9 (R11) -/
  acc : BitVec Config.accW
  /-- MODE, register 0: bit 0 is WRAP (R17) -/
  mode : BitVec 1
  /-- STAT, register 1: the flags of the last command other than a successful REGRD (R18, R19) -/
  stat : BitVec 8
  /-- ERR, register 2: the fault code of the last command other than a successful REGRD (R20) -/
  err : BitVec 3
  /-- WARN, register 3: sticky copies of STAT bits 7:3 (R22) -/
  warn : BitVec 8
  /-- WCNT, register 4: the saturating count of substitutions (R23) -/
  wcnt : BitVec Config.wcntW
  /-- ADDR, register 5: `PKT = ADDR[4:0]`, `MAG = ADDR[7:5]` (R24) -/
  addr : BitVec 8
  /-- PAGE, register 6: page number of a header packet (R25) -/
  page : BitVec 8
  /-- SUB, register 7: sub-code of a header packet, bits 7, 14 and 15 always 0 (R26) -/
  sub : BitVec 16
  /-- CTL, register 8: the control bits C4 to C14 (R27) -/
  ctl : BitVec 11
  /-- SIN: bytes supplied and not yet taken, head first (R13) -/
  sin : List Byte
  /-- SOUT: every byte emitted since reset, in order (R13) -/
  sout : List Byte
  /-- the model's own: what the host does next, one event a step (R41, R199; log entries 1 and 2) -/
  port : List HostEvent
  /-- the model's own: the response words returned so far, oldest first (R12, R199; log entry 3) -/
  responses : List Word
deriving DecidableEq, Repr

/-- Reasons a step can stop the machine: none. TPC has no stuck state (R185), and what the spec calls a fault is
a command that completes with a code in ERR and leaves the block ready for the next one (R167, R172), so it is a
next state here (`raiseFault`). With no constructor, "no step stops the machine" holds by the type (log entry 9). -/
inductive Fault where
deriving DecidableEq, Repr

/-- Reasons the model has no meaning for an instruction. -/
inductive Refusal where
  /-- Raised by no arm of `exec`: all 24 commands have their meaning. It would be raised for a command that is
  not modelled; safe, since the model then stops where the hardware goes on. -/
  | notModelled (mnemonic : String)
deriving DecidableEq, Repr

/-- What a meaning and a step answer. -/
abbrev Result := Host.Outcome State Fault Refusal

/-- An entry of FD after reset: VALID is 0 (R33); the body, which the spec leaves unspecified and unobservable
(R15), is 0: DESIGN CHOICE, log entry 5. -/
def FdEntry.empty : FdEntry := { valid := false, body := 0 }

/-- The state right after reset (R33, R187), with no host event waiting and no response returned. -/
def State.reset : State :=
  { pb := []
    fd := Vector.replicate Config.fdLen FdEntry.empty
    acc := 0
    mode := 0
    stat := 0
    err := 0
    warn := 0
    wcnt := 0
    addr := 0
    page := 0
    sub := 0
    ctl := 0
    sin := []
    sout := []
    port := []
    responses := [] }

end Sys2Proof.Machine
end

