-- ==== Sys2Proof/Machine/Ops.lean ====
section
/-! DEFINITION. Ops.lean: the named operations through which every rule touches state (spec/00_scope.md R7):
reads and writes of the packet buffer, one write per register, the streams, the field-descriptor memory, the
normal end of a command and the one shared operation of a fault. -/

namespace Sys2Proof.Machine

/-! ### The packet buffer as byte memory -/

/-- What a cell that is not listed reads as: the reset contents of PB, 0x00 (spec/10_state.md R14, R33). -/
def Memory.unlisted : Byte := 0

/-- `PB[a]`, read (R7). A cell that is not listed holds `Memory.unlisted`. -/
def Memory.read (m : Memory) (a : Nat) : Byte :=
  match m with
  | [] => Memory.unlisted
  | (b, v) :: rest => if b = a then v else Memory.read rest a

/-- A cell in front of a memory, left out when it holds what an unlisted address reads as. -/
def Memory.cons (a : Nat) (v : Byte) (m : Memory) : Memory :=
  if v = Memory.unlisted then m else (a, v) :: m

/-- `PB[a] <- v` (R7), in the canonical form: addresses strictly rising, no cell listed that holds
`Memory.unlisted`. -/
def Memory.write (m : Memory) (a : Nat) (v : Byte) : Memory :=
  match m with
  | [] => Memory.cons a v []
  | (b, w) :: rest =>
    if a < b then Memory.cons a v ((b, w) :: rest)
    else if a = b then Memory.cons a v rest
    else (b, w) :: Memory.write rest a v

/-- Bytes written one after another from address `a` up: the multi-byte writes of PBCLR, TRIPPUT and DESER
(spec/20_memory.md R46). -/
def Memory.store (m : Memory) (a : Nat) (bs : List Byte) : Memory :=
  match bs with
  | [] => m
  | b :: rest => Memory.store (Memory.write m a b) (a + 1) rest

/-- The bytes from address `a` up, `n` of them. -/
def Memory.load (m : Memory) (a n : Nat) : List Byte :=
  (List.range n).map fun i => Memory.read m (a + i)

/-- The canonical form: addresses strictly rising and no listed cell equal to what an unlisted address reads as,
and every listed address inside the space PB[0..39] (R34). -/
def Memory.wf : Memory → Bool
  | [] => true
  | (a, v) :: rest =>
    decide (a < Config.pbLen) && decide (v ≠ Memory.unlisted) &&
      (match rest with
       | [] => true
       | (b, _) :: _ => decide (a < b)) && Memory.wf rest

/-! ### One write per item of state (`REG <- v` of R7) -/

/-- PB becomes `v`. -/
def State.setPb (s : State) (v : Memory) : State := { s with pb := v }
/-- FD becomes `v`. -/
def State.setFd (s : State) (v : Vector FdEntry Config.fdLen) : State := { s with fd := v }
/-- `ACC <- v` (spec/10_state.md R11). -/
def State.setAcc (s : State) (v : BitVec Config.accW) : State := { s with acc := v }
/-- `MODE <- v` (R17). -/
def State.setMode (s : State) (v : BitVec 1) : State := { s with mode := v }
/-- `STAT <- v` (R19). -/
def State.setStat (s : State) (v : BitVec 8) : State := { s with stat := v }
/-- `ERR <- v` (R20). -/
def State.setErr (s : State) (v : BitVec 3) : State := { s with err := v }
/-- `WARN <- v` (R22). -/
def State.setWarn (s : State) (v : BitVec 8) : State := { s with warn := v }
/-- `WCNT <- v` (R23). -/
def State.setWcnt (s : State) (v : BitVec Config.wcntW) : State := { s with wcnt := v }
/-- `ADDR <- v` (R24). -/
def State.setAddr (s : State) (v : BitVec 8) : State := { s with addr := v }
/-- `PAGE <- v` (R25). -/
def State.setPage (s : State) (v : BitVec 8) : State := { s with page := v }
/-- `SUB <- v` (R26). -/
def State.setSub (s : State) (v : BitVec 16) : State := { s with sub := v }
/-- `CTL <- v` (R27). -/
def State.setCtl (s : State) (v : BitVec 11) : State := { s with ctl := v }
/-- SIN becomes `v`. -/
def State.setSin (s : State) (v : List Byte) : State := { s with sin := v }
/-- SOUT becomes `v`. -/
def State.setSout (s : State) (v : List Byte) : State := { s with sout := v }
/-- The host's events still to come become `v`. -/
def State.setPort (s : State) (v : List HostEvent) : State := { s with port := v }
/-- `rsp <- v`, returned to the host (R7, R12): it goes on the list of responses. -/
def State.respond (s : State) (v : Word) : State := { s with responses := s.responses ++ [v] }

/-! ### Streams -/

/-- `take(SIN, n)` (R7): the first `n` bytes are removed. -/
def State.takeSin (s : State) (n : Nat) : State := s.setSin (s.sin.drop n)

/-- The host appends one byte to the tail of SIN (spec/20_memory.md R41 b, R13). -/
def State.appendSin (s : State) (b : Byte) : State := s.setSin (s.sin ++ [b])

/-- `emit(SOUT, bytes)` (R7): the bytes go to the tail of SOUT. -/
def State.emit (s : State) (bytes : List Byte) : State := s.setSout (s.sout ++ bytes)

/-! ### Field-descriptor memory -/

/-- `FD[i] <- e` (R7); all 64 values of the index are legal (spec/20_memory.md R34). -/
def State.writeFd (s : State) (i : BitVec 6) (e : FdEntry) : State :=
  s.setFd (s.fd.set i.toNat e i.isLt)

/-- `FD[i].VALID <- 0` for every i (spec/44_fields.md R119). The bodies become what they are after reset, so
that FD after FDCLR equals FD after reset (R119); log entry 5. -/
def State.clearFd (s : State) : State := s.setFd (Vector.replicate Config.fdLen FdEntry.empty)

/-! ### The ends of a command -/

/-- The six fault codes (spec/60_exceptions.md R169). -/
inductive ErrCode where
  /-- unknown opcode -/
  | eOpc
  /-- a reserved payload bit, a reserved `tsel`, or a bad FDWR geometry -/
  | eOper
  /-- an index outside its space -/
  | eRange
  /-- a broken descriptor run -/
  | eFd
  /-- AUTO with a packet number that has no template -/
  | eNotmpl
  /-- fewer bytes in SIN than one record -/
  | eTrunc
deriving DecidableEq, Repr

/-- The value of ERR for a fault code (R169). -/
def ErrCode.code : ErrCode → BitVec 3
  | .eOpc => 1
  | .eOper => 2
  | .eRange => 3
  | .eFd => 4
  | .eNotmpl => 5
  | .eTrunc => 6

/-- `fault E_x` (R7, spec/60_exceptions.md R172): exactly `ERR <- code`, `STAT <- 0`, `rsp <- 0`. This is all
that taking a fault does: nothing is vectored or saved and no mode changes, so there is no operation that
returns from one (R167, R174). -/
def raiseFault (e : ErrCode) (s : State) : State :=
  ((s.setErr e.code).setStat 0).respond 0

/-- `done(flags)` with the response `rsp` (R7, spec/43_regs_buffer.md R103): `ERR <- 0`, `STAT <- flags`. -/
def complete (flags : BitVec 8) (rsp : Word) (s : State) : State :=
  ((s.setErr 0).setStat flags).respond rsp

end Sys2Proof.Machine
end

