-- ==== Sys2Proof/Machine/Flags.lean ====
section
/-! DEFINITION. Flags.lean: the flag byte that STAT and WARN share (spec/10_state.md R18) and every computation
of a flag or of the warning record (spec/60_exceptions.md R176, R177; spec/45_serializer.md R161). -/

namespace Sys2Proof.Machine

/-- Bit 0: at least one Hamming 8/4 codeword decoded to the sentinel (R18). -/
def flagInv8 : BitVec 8 := 0x01
/-- Bit 1: at least one Hamming 24/18 codeword was corrected (R18). -/
def flagCor24 : BitVec 8 := 0x02
/-- Bit 2: at least one Hamming 24/18 codeword was uncorrectable (R18). -/
def flagUnc24 : BitVec 8 := 0x04
/-- Bit 3: at least one triplet was replaced by the no-op triplet (R18). -/
def flagSTrip : BitVec 8 := 0x08
/-- Bit 4: at least one item was replaced by zero (R18). -/
def flagSZero : BitVec 8 := 0x10
/-- Bit 5: at least one link record was replaced by the neutral link (R18). -/
def flagSLink : BitVec 8 := 0x20
/-- Bit 6: the designation-code byte of the record was invalid (R18). -/
def flagDcInv : BitVec 8 := 0x40
/-- Bit 7: an address byte of the record was invalid (R18). -/
def flagAddrInv : BitVec 8 := 0x80

/-- The STAT bits that WARN keeps: bits 7:3 (R22). -/
def warnMask : BitVec 8 := 0xF8

/-- `WARN | (flags & 0xF8)` (R22, R161). -/
def warnAfter (warn flags : BitVec 8) : BitVec 8 := warn ||| (flags &&& warnMask)

/-- `min(0xFFFF, WCNT + n)`: the counter saturates at the largest number of its width (R23, R161). -/
def wcntAfter (wcnt : BitVec Config.wcntW) (n : Nat) : BitVec Config.wcntW :=
  BitVec.ofNat Config.wcntW (min (2 ^ Config.wcntW - 1) (wcnt.toNat + n))

/-- The STAT of H84DEC from the decoded entry: INV8 exactly when it is the sentinel (spec/40_hamming84.md R77). -/
def h84decFlags (d sentinel : Byte) : BitVec 8 := if d = sentinel then flagInv8 else 0

/-- The STAT of H24DEC from its result word: COR24 is bit 30, UNC24 is bit 31 (spec/41_hamming2418.md R92). -/
def h24decFlags (r : Word) : BitVec 8 :=
  (if r.getLsbD 30 then flagCor24 else 0) ||| (if r.getLsbD 31 then flagUnc24 else 0)

end Sys2Proof.Machine
end

