-- ==== Sys2Proof/Machine/Hamming2418.lean ====
section
/-! DEFINITION. Hamming2418.lean: the Hamming 24/18 code from its layout and its parity sets
(spec/41_hamming2418.md R80 to R89, R93). Positions are numbered 1 to 24; position n is bit n-1 (R81). -/

namespace Sys2Proof.Machine

/-- H24_ERR: the reserved error value of a decode (R5, R88, R89). -/
def h24Err : Word := 0x80000000

/-- The positions of the data bits D1 to D18, in order (R82). -/
def h24DataPositions : List Nat :=
  [3, 5, 6, 7, 9, 10, 11, 12, 13, 14, 15, 17, 18, 19, 20, 21, 22, 23]

/-- The position of the check bit of each parity test A to F (R82, R83). -/
def h24CheckPositions : List Nat := [1, 2, 4, 8, 16, 24]

/-- The positions in the sets of the parity tests A to F (R83). -/
def h24ParitySets : List (List Nat) :=
  [[1, 3, 5, 7, 9, 11, 13, 15, 17, 19, 21, 23],
   [2, 3, 6, 7, 10, 11, 14, 15, 18, 19, 22, 23],
   [4, 5, 6, 7, 12, 13, 14, 15, 20, 21, 22, 23],
   [8, 9, 10, 11, 12, 13, 14, 15],
   [16, 17, 18, 19, 20, 21, 22, 23],
   [1, 2, 3, 4, 5, 6, 7, 8, 9, 10, 11, 12, 13, 14, 15, 16, 17, 18, 19, 20, 21, 22, 23, 24]]

/-- The exclusive or of the bits of `c` at a list of positions. -/
def xorAt (c : BitVec 24) : List Nat → Bool
  | [] => false
  | n :: rest => c.getLsbD (n - 1) ^^ xorAt c rest

/-- A 24-bit number whose only one bit, if `b`, is at position `n`. -/
def bitAt (n : Nat) (b : Bool) : BitVec 24 := if b then 1#24 <<< (n - 1) else 0

/-- The data bits of `v`, from bit `i` up, at a list of positions. -/
def placeFrom (v : BitVec 18) (i : Nat) : List Nat → BitVec 24
  | [] => 0
  | n :: rest => bitAt n (v.getLsbD i) ||| placeFrom v (i + 1) rest

/-- D1 to D18 at their positions, every check bit 0 (R82, first line of R84). -/
def h24Place (v : BitVec 18) : BitVec 24 := placeFrom v 0 h24DataPositions

/-- The check bit of parity test `t`: it makes the number of ones in the test's set odd. The bit of the check's
own position is left out of the sum (R84). -/
def checkBit (c : BitVec 24) (t : Nat) : BitVec 24 :=
  let own := h24CheckPositions.getD t 0
  bitAt own (true ^^ xorAt c ((h24ParitySets.getD t []).filter (· != own)))

/-- `h24enc(v)` (R84): the data bits, then P1 to P5, then P6 over positions 1 to 23. -/
def h24enc (v : BitVec 18) : BitVec 24 :=
  let c := h24Place v
  let c5 := c ||| checkBit c 0 ||| checkBit c 1 ||| checkBit c 2 ||| checkBit c 3 ||| checkBit c 4
  c5 ||| checkBit c5 5

/-- `fail_T` of a received word: 1 when the set of test `t` holds an even number of ones (R85). -/
def parityFails (c : BitVec 24) (t : Nat) : Bool :=
  true ^^ xorAt c (h24ParitySets.getD t [])

/-- The syndrome of a received word: bit t is the failure of test t, A to F (R86). -/
def h24Syndrome (c : BitVec 24) : BitVec 6 :=
  BitVec.ofBoolListLE
    [parityFails c 0, parityFails c 1, parityFails c 2, parityFails c 3, parityFails c 4, parityFails c 5]

/-- The status of a correction-table entry (R87). -/
inductive CorStatus where
  /-- no test failed -/
  | ok
  /-- one bit was wrong -/
  | corrected
  /-- no single wrong bit explains the syndrome -/
  | uncorrectable
deriving DecidableEq, Repr

/-- The bits of `c` at a list of positions, gathered from bit `i` up (R88, first line). -/
def gatherFrom (c : BitVec 24) (i : Nat) : List Nat → BitVec 18
  | [] => 0
  | n :: rest => (if c.getLsbD (n - 1) then 1#18 <<< i else 0) ||| gatherFrom c (i + 1) rest

/-- The recombined data bits of a received word (R88). -/
def h24Recombine (c : BitVec 24) : BitVec 18 := gatherFrom c 0 h24DataPositions

/-- The mask that flips the data bit at position `n`: `1 << (i-1)` when it holds D(i), 0 when it holds a check
bit (R87). -/
def positionMask (n : Nat) : BitVec 18 :=
  if n ∈ h24DataPositions then 1#18 <<< h24DataPositions.idxOf n else 0

/-- The correction table COR, indexed by the syndrome (R87). -/
def h24Cor (syn : BitVec 6) : BitVec 18 × CorStatus :=
  if syn.toNat = 0 then (0, .ok)
  else if syn.toNat < 32 then (0, .uncorrectable)
  else if syn.toNat < 56 then (positionMask (syn.toNat - 32), .corrected)
  else (0, .uncorrectable)

/-- `h24dec(c)` (R88, R89): bit 31 uncorrectable, bit 30 corrected, bits 17:0 the data. -/
def h24dec (c : BitVec 24) : Word :=
  let v0 := h24Recombine c
  match h24Cor (h24Syndrome c) with
  | (_, .uncorrectable) => h24Err
  | (m, .corrected) => 0x40000000#32 ||| (v0 ^^^ m).setWidth 32
  | (m, .ok) => (v0 ^^^ m).setWidth 32

end Sys2Proof.Machine
end

