-- ==== Sys2Proof/Machine/Hamming84.lean ====
section
/-! DEFINITION. Hamming84.lean: the Hamming 8/4 code as two read-only tables (spec/40_hamming84.md R72, R74,
R78; spec/10_state.md R31). -/

namespace Sys2Proof.Machine

/-- H84_INVALID: the invalid-symbol sentinel of the decode table (R5, R74). -/
def h84Invalid : Byte := 0xFF

/-- H84_CORRECTS: whether the decode table maps a byte with one wrong bit to the codeword's data (R5;
spec/90_conflicts.md C3 fixes it to true). It chooses the decode table `h84DecTable`, and enters `h84Nearest`, the
formula that the table is derived from. -/
def h84Corrects : Bool := true

/-- H84_TABLE: the 16 codewords, indexed by the 4 data bits (R72). -/
def h84EncTable : List Byte :=
  [0x15, 0x02, 0x49, 0x5E, 0x64, 0x73, 0x38, 0x2F,
   0xD0, 0xC7, 0x8C, 0x9B, 0xA1, 0xB6, 0xFD, 0xEA]

/-- `H84E[d]`: one read of the encode table (R72, R78), which `h84d` undoes (R79). -/
def h84e (d : BitVec 4) : Byte := h84EncTable.getD d.toNat 0

/-- The decode table of R74 by rows, as the spec prints it: row = high nibble of the received byte, column = its low
nibble. It corrects one wrong bit. -/
def h84CorrectingTable : List (List Byte) :=
  [[0x01, 0xFF, 0x01, 0x01, 0xFF, 0x00, 0x01, 0xFF, 0xFF, 0x02, 0x01, 0xFF, 0x0A, 0xFF, 0xFF, 0x07],
   [0xFF, 0x00, 0x01, 0xFF, 0x00, 0x00, 0xFF, 0x00, 0x06, 0xFF, 0xFF, 0x0B, 0xFF, 0x00, 0x03, 0xFF],
   [0xFF, 0x0C, 0x01, 0xFF, 0x04, 0xFF, 0xFF, 0x07, 0x06, 0xFF, 0xFF, 0x07, 0xFF, 0x07, 0x07, 0x07],
   [0x06, 0xFF, 0xFF, 0x05, 0xFF, 0x00, 0x0D, 0xFF, 0x06, 0x06, 0x06, 0xFF, 0x06, 0xFF, 0xFF, 0x07],
   [0xFF, 0x02, 0x01, 0xFF, 0x04, 0xFF, 0xFF, 0x09, 0x02, 0x02, 0xFF, 0x02, 0xFF, 0x02, 0x03, 0xFF],
   [0x08, 0xFF, 0xFF, 0x05, 0xFF, 0x00, 0x03, 0xFF, 0xFF, 0x02, 0x03, 0xFF, 0x03, 0xFF, 0x03, 0x03],
   [0x04, 0xFF, 0xFF, 0x05, 0x04, 0x04, 0x04, 0xFF, 0xFF, 0x02, 0x0F, 0xFF, 0x04, 0xFF, 0xFF, 0x07],
   [0xFF, 0x05, 0x05, 0x05, 0x04, 0xFF, 0xFF, 0x05, 0x06, 0xFF, 0xFF, 0x05, 0xFF, 0x0E, 0x03, 0xFF],
   [0xFF, 0x0C, 0x01, 0xFF, 0x0A, 0xFF, 0xFF, 0x09, 0x0A, 0xFF, 0xFF, 0x0B, 0x0A, 0x0A, 0x0A, 0xFF],
   [0x08, 0xFF, 0xFF, 0x0B, 0xFF, 0x00, 0x0D, 0xFF, 0xFF, 0x0B, 0x0B, 0x0B, 0x0A, 0xFF, 0xFF, 0x0B],
   [0x0C, 0x0C, 0xFF, 0x0C, 0xFF, 0x0C, 0x0D, 0xFF, 0xFF, 0x0C, 0x0F, 0xFF, 0x0A, 0xFF, 0xFF, 0x07],
   [0xFF, 0x0C, 0x0D, 0xFF, 0x0D, 0xFF, 0x0D, 0x0D, 0x06, 0xFF, 0xFF, 0x0B, 0xFF, 0x0E, 0x0D, 0xFF],
   [0x08, 0xFF, 0xFF, 0x09, 0xFF, 0x09, 0x09, 0x09, 0xFF, 0x02, 0x0F, 0xFF, 0x0A, 0xFF, 0xFF, 0x09],
   [0x08, 0x08, 0x08, 0xFF, 0x08, 0xFF, 0xFF, 0x09, 0x08, 0xFF, 0xFF, 0x0B, 0xFF, 0x0E, 0x03, 0xFF],
   [0xFF, 0x0C, 0x0F, 0xFF, 0x04, 0xFF, 0xFF, 0x09, 0x0F, 0xFF, 0x0F, 0x0F, 0xFF, 0x0E, 0x0F, 0xFF],
   [0x08, 0xFF, 0xFF, 0x05, 0xFF, 0x0E, 0x0D, 0xFF, 0xFF, 0x0E, 0x0F, 0xFF, 0x0E, 0x0E, 0xFF, 0x0E]]

/-- The decode table were H84_CORRECTS false (spec/90_conflicts.md C3): the entries of the sixteen codewords, and the
sentinel at every other byte. -/
def h84ExactTable : List (List Byte) :=
  h84CorrectingTable.zipIdx.map fun row => row.1.zipIdx.map fun entry =>
    if h84EncTable.contains (BitVec.ofNat 8 (16 * row.2 + entry.2)) then entry.1 else h84Invalid

/-- H84D, the decode table that H84_CORRECTS selects (R5, R74). -/
def h84DecTable : List (List Byte) := if h84Corrects then h84CorrectingTable else h84ExactTable

/-- `H84D[b]`: one read of the decode table, 0..15 or the sentinel (R74, R78). At a codeword it is the codeword's data:
`h84d (h84e d)` is `d` (R79). -/
def h84d (b : Byte) : Byte :=
  (h84DecTable.getD (b.toNat / 16) []).getD (b.toNat % 16) h84Invalid

/-- The number of one bits of a byte (R6). -/
def popcount8 (b : Byte) : Nat := (List.range 8).countP fun i => b.getLsbD i

/-- The formula of R74 that the decode table is derived from: the data of the codeword that differs from `b` in
at most one bit (in no bit, were H84_CORRECTS false), or the sentinel when no codeword is that close. -/
def h84Nearest (b : Byte) : Byte :=
  match (List.range 16).find? fun d =>
      popcount8 (b ^^^ h84e (BitVec.ofNat 4 d)) ≤ (if h84Corrects then 1 else 0) with
  | some d => BitVec.ofNat 8 d
  | none => h84Invalid

/-- The generating equations of the codewords (R73): the byte has, from bit 0 to bit 7, the bits
P1, D1, P2, D2, P3, D3, P4, D4. -/
def h84Equations (d : BitVec 4) : Byte :=
  let d1 := d.getLsbD 0
  let d2 := d.getLsbD 1
  let d3 := d.getLsbD 2
  let d4 := d.getLsbD 3
  let p1 := true ^^ d1 ^^ d3 ^^ d4
  let p2 := true ^^ d1 ^^ d2 ^^ d4
  let p3 := true ^^ d1 ^^ d2 ^^ d3
  let p4 := true ^^ p1 ^^ d1 ^^ p2 ^^ d2 ^^ p3 ^^ d3 ^^ d4
  BitVec.ofBoolListLE [p1, d1, p2, d2, p3, d3, p4, d4]

end Sys2Proof.Machine
end

