-- ==== Sys2Proof/Machine/Parity.lean ====
section
/-! DEFINITION. Parity.lean: the odd-parity and bit-reversal byte codecs (spec/42_parity_bitrev.md R94 to R101). -/

namespace Sys2Proof.Machine

/-- The parity bit of a byte, at PARITY_BIT (R5, R96). -/
def parityMask : Byte := 1#8 <<< Config.parityBit

/-- The data bits of a parity-coded byte: every bit but the parity bit, `0x7F` (R96, R97). -/
def dataMask : Byte := ~~~parityMask

/-- `xor_bits` of a byte (R6). -/
def xorBits (v : Byte) : Bool :=
  v.getLsbD 0 ^^ v.getLsbD 1 ^^ v.getLsbD 2 ^^ v.getLsbD 3 ^^ v.getLsbD 4 ^^ v.getLsbD 5 ^^ v.getLsbD 6 ^^ v.getLsbD 7

/-- `parenc(x)` (R97): the low seven bits, and bit 7 set exactly when they hold an even number of ones; bit 7 of
x is ignored. -/
def oddParity (x : Byte) : Byte :=
  (x &&& dataMask) ||| (if xorBits (x &&& dataMask) then 0 else parityMask)

/-- `pardec(b) = b & 0x7F` (R98): the parity bit is dropped and not checked. -/
def stripParity (b : Byte) : Byte := b &&& dataMask

/-- `bitrev(b)` (R101): bit i of the result is bit 7-i of b. -/
def reverseBits (b : Byte) : Byte :=
  BitVec.ofBoolListLE
    [b.getLsbD 7, b.getLsbD 6, b.getLsbD 5, b.getLsbD 4, b.getLsbD 3, b.getLsbD 2, b.getLsbD 1, b.getLsbD 0]

end Sys2Proof.Machine
end

