-- ==== Sys2Proof/Machine/Operands.lean ====
section
/-! DEFINITION. Operands.lean: what the operand fields of a command name: register numbers, descriptor
segments, triplet slots and values, the fields of ADDR, and the template operand. -/

namespace Sys2Proof.Machine

/-! ### Register numbers (spec/10_state.md R16) -/

/-- The ten numbered registers (R16). -/
inductive RegName where
  | mode | stat | err | warn | wcnt | addr | page | sub | ctl | acc
deriving DecidableEq, Repr

/-- The register a number names; 10 to 255 name none (R16, R28). -/
def regOfNumber (r : BitVec 8) : Option RegName :=
  if r = 0 then some .mode
  else if r = 1 then some .stat
  else if r = 2 then some .err
  else if r = 3 then some .warn
  else if r = 4 then some .wcnt
  else if r = 5 then some .addr
  else if r = 6 then some .page
  else if r = 7 then some .sub
  else if r = 8 then some .ctl
  else if r = 9 then some .acc
  else none

/-- The value REGRD returns: the register zero-extended to 32 bits (R16, spec/43_regs_buffer.md R105). -/
def readReg (n : RegName) (s : State) : Word :=
  match n with
  | .mode => s.mode.setWidth 32
  | .stat => s.stat.setWidth 32
  | .err => s.err.setWidth 32
  | .warn => s.warn.setWidth 32
  | .wcnt => s.wcnt.setWidth 32
  | .addr => s.addr.setWidth 32
  | .page => s.page.setWidth 32
  | .sub => s.sub.setWidth 32
  | .ctl => s.ctl.setWidth 32
  | .acc => s.acc.setWidth 32

/-- The write mask of a register that REGWR may write; none for a read-only one (R16, R107, R28). -/
def writeMask (n : RegName) : Option (BitVec 16) :=
  match n with
  | .mode => some 0x0001
  | .stat => none
  | .err => none
  | .warn => none
  | .wcnt => none
  | .addr => some 0x00FF
  | .page => some 0x00FF
  | .sub => some 0x3F7F
  | .ctl => some 0x07FF
  | .acc => none

/-- The bits of SUB that exist: S4, S3, S2 and S1 (R26, R107). -/
def subMask : BitVec 16 := 0x3F7F

/-- `reg[r] <- v` for a value already masked (R106); a read-only register is left as it is. -/
def writeReg (n : RegName) (v : BitVec 16) (s : State) : State :=
  match n with
  | .mode => s.setMode (v.setWidth 1)
  | .stat => s
  | .err => s
  | .warn => s
  | .wcnt => s
  | .addr => s.setAddr (v.setWidth 8)
  | .page => s.setPage (v.setWidth 8)
  | .sub => s.setSub v
  | .ctl => s.setCtl (v.setWidth 11)
  | .acc => s

/-! ### Packet-buffer indices (spec/20_memory.md R34) -/

/-- The index is inside PB (R34, spec/43_regs_buffer.md R110, R111). -/
def pbIndexOk (idx : BitVec 8) : Bool := idx.toNat < Config.pbLen

/-! ### Descriptor segments (spec/44_fields.md R115) -/

/-- LAST: the segment ends its descriptor (R115). -/
def segLast (body : BitVec 18) : Bool := body.getLsbD 17
/-- BYTE: the PB byte that the segment lies in (R115). -/
def segByte (body : BitVec 18) : Nat := (body.extractLsb' 11 6).toNat
/-- LSB: the lowest bit of the segment inside its byte (R115). -/
def segLsb (body : BitVec 18) : Nat := (body.extractLsb' 8 3).toNat
/-- W = WM1 + 1: the segment's width (R115). -/
def segWidth (body : BitVec 18) : Nat := (body.extractLsb' 5 3).toNat + 1
/-- OFF: the place of the segment's lowest bit in the field value (R115). -/
def segOff (body : BitVec 18) : Nat := (body.extractLsb' 0 5).toNat

/-- The 18-bit body of a segment, W[17:0] of FDWR (R118, R58). -/
def segBody (last : BitVec 1) (byte : BitVec 6) (lsb wm1 : BitVec 3) (off : BitVec 5) : BitVec 18 :=
  last.setWidth 18 <<< 17 ||| byte.setWidth 18 <<< 11 ||| lsb.setWidth 18 <<< 8 ||| wm1.setWidth 18 <<< 5 |||
    off.setWidth 18

/-- The segment leaves neither its byte nor ACC: `lsb + W <= 8` and `off + W <= 24` (R117). -/
def segFits (body : BitVec 18) : Bool :=
  decide (segLsb body + segWidth body ≤ 8) && decide (segOff body + segWidth body ≤ Config.accW)

/-- The segment's byte is inside PB: `byte <= 39` (R117). -/
def segInPb (body : BitVec 18) : Bool := segByte body < Config.pbLen

/-- A well-formed geometry: all three lines of R117. -/
def segGood (body : BitVec 18) : Bool := segFits body && segInPb body

/-- `2^W - 1` as a byte: the mask of one shift and mask pair (R115). -/
def widthMask (w : Nat) : Byte := BitVec.ofNat 8 (2 ^ w - 1)

/-- The segment's bits of PB, at its place in the field value: one turn of the loop of R121. -/
def segRead (pb : Memory) (body : BitVec 18) : BitVec Config.accW :=
  ((pb.read (segByte body) >>> segLsb body) &&& widthMask (segWidth body)).setWidth Config.accW <<< segOff body

/-- The segment's bits of ACC put into PB, every other bit of the byte kept: one turn of the loop of R122. -/
def segWrite (acc : BitVec Config.accW) (pb : Memory) (body : BitVec 18) : Memory :=
  let m : Byte := widthMask (segWidth body) <<< segLsb body
  let v : Byte := ((acc >>> segOff body).setWidth 8 &&& widthMask (segWidth body)) <<< segLsb body
  pb.write (segByte body) ((pb.read (segByte body) &&& ~~~m) ||| v)

/-- The walk over the entries from the start index up (spec/44_fields.md R120): the bodies of the run, in order,
or none when an entry is not valid or FD ends before an entry with LAST. -/
def walkEntries : List FdEntry → Option (List (BitVec 18))
  | [] => none
  | e :: rest =>
    if e.valid then
      if segLast e.body then some [e.body]
      else (walkEntries rest).map (e.body :: ·)
    else none

/-- `walk(start)` (R120). -/
def walk (fd : Vector FdEntry Config.fdLen) (start : BitVec 6) : Option (List (BitVec 18)) :=
  walkEntries (fd.toList.drop start.toNat)

/-- The field value that a descriptor's segments gather from PB (R121). -/
def gatherField (pb : Memory) (segs : List (BitVec 18)) : BitVec Config.accW :=
  segs.foldl (fun acc body => acc ||| segRead pb body) 0

/-- PB after a descriptor's segments scatter ACC into it, in order (R122). -/
def scatterField (acc : BitVec Config.accW) (segs : List (BitVec 18)) (pb : Memory) : Memory :=
  segs.foldl (segWrite acc) pb

/-! ### Triplets (spec/44_fields.md R126 to R132) -/

/-- The slot index is inside the triplet-slot space: k <= 12 (spec/20_memory.md R34, R130, R131). -/
def slotOk (k : BitVec 4) : Bool := k.toNat < Config.nTriplets

/-- The index of the first PB byte of slot k: 1 + 3k (R126). -/
def slotBase (k : Nat) : Nat := 1 + 3 * k

/-- The 18-bit value of three group bytes, the two high bits of each ignored (R127, R130). -/
def tripletOfBytes (b0 b1 b2 : Byte) : BitVec 18 :=
  (b0 &&& 0x3F).setWidth 18 ||| (b1 &&& 0x3F).setWidth 18 <<< 6 ||| (b2 &&& 0x3F).setWidth 18 <<< 12

/-- The three group bytes of an 18-bit value, least significant group first (R127). -/
def bytesOfTriplet (v : BitVec 18) : List Byte :=
  [(v.extractLsb' 0 6).setWidth 8, (v.extractLsb' 6 6).setWidth 8, (v.extractLsb' 12 6).setWidth 8]

/-- The value held in slot k of PB (R127, R130). -/
def tripletAt (pb : Memory) (k : Nat) : BitVec 18 :=
  tripletOfBytes (pb.read (slotBase k)) (pb.read (slotBase k + 1)) (pb.read (slotBase k + 2))

/-- The address field, v[5:0] (R128). -/
def tripletAddress (v : BitVec 18) : BitVec 6 := v.extractLsb' 0 6
/-- The mode field, v[10:6] (R128). -/
def tripletMode (v : BitVec 18) : BitVec 5 := v.extractLsb' 6 5
/-- The data field, v[17:11] (R128). -/
def tripletData (v : BitVec 18) : BitVec 7 := v.extractLsb' 11 7

/-- A triplet value from its three fields (R128): `address | mode << 6 | data << 11`. -/
def tripletOfFields (address : BitVec 6) (mode : BitVec 5) (data : BitVec 7) : BitVec 18 :=
  address.setWidth 18 ||| mode.setWidth 18 <<< 6 ||| data.setWidth 18 <<< 11

/-- `row(v)`: 1 when the address is 40 or more (R129). -/
def tripletRow (v : BitVec 18) : Bool := 40 ≤ (tripletAddress v).toNat

/-- `extmode(v)`: the mode of a row triplet, the mode with bit 5 set of a column triplet (R129). -/
def tripletExtMode (v : BitVec 18) : BitVec 6 :=
  if tripletRow v then (tripletMode v).setWidth 6 else (tripletMode v).setWidth 6 ||| 0x20

/-- NOOP_TRIPLET: address 41, mode 0x1E, data 0 (R5, R132). -/
def noopTriplet : BitVec 18 := tripletOfFields 41 0x1E 0

/-! ### ADDR and the template operand (spec/10_state.md R24, spec/45_serializer.md R137 to R140) -/

/-- `PKT = ADDR[4:0]` (R24). -/
def addrPkt (addr : BitVec 8) : BitVec 5 := addr.extractLsb' 0 5
/-- `MAG = ADDR[7:5]` (R24). -/
def addrMag (addr : BitVec 8) : BitVec 3 := addr.extractLsb' 5 3

/-- `a0 = MAG | (PKT & 1) << 3` (R140). -/
def addressNibble0 (addr : BitVec 8) : BitVec 4 :=
  (addrMag addr).setWidth 4 ||| (addrPkt addr &&& 1).setWidth 4 <<< 3
/-- `a1 = PKT >> 1` (R140). -/
def addressNibble1 (addr : BitVec 8) : BitVec 4 := (addrPkt addr >>> 1).setWidth 4

/-- `MAG = a0 & 7`, `PKT = (a0 >> 3) | (a1 << 1)` as ADDR = `MAG << 5 | PKT` (R140, R151). -/
def addrOfNibbles (a0 a1 : BitVec 4) : BitVec 8 :=
  (a0 &&& 7).setWidth 8 <<< 5 ||| ((a0 >>> 3).setWidth 8 ||| a1.setWidth 8 <<< 1)

/-- The four record templates (R137). -/
inductive Template where
  /-- 1: page header -/
  | hdr
  /-- 2: display row -/
  | row
  /-- 3: designation packet of triplets -/
  | trip
  /-- 4: X/27 link packet -/
  | link
deriving DecidableEq, Repr

/-- The template's number (R137). -/
def Template.number : Template → BitVec 3
  | .hdr => 1
  | .row => 2
  | .trip => 3
  | .link => 4

/-- The mux (R138): the template of a packet number and designation code; none for 25, 29, 30 and 31 (R164). -/
def mux (pkt : BitVec 5) (dc : BitVec 4) : Option Template :=
  if pkt = 0 then some .hdr
  else if pkt.toNat ≤ 24 then some .row
  else if pkt = 26 ∨ pkt = 28 then some .trip
  else if pkt = 27 then (if dc.toNat ≤ 3 then some .link else some .trip)
  else none

/-- The template that a `tsel` operand forces: 1 to 4 the template of that number, 0 (AUTO) none (R139). -/
def forced (tsel : BitVec 3) : Option Template :=
  if tsel = 1 then some .hdr
  else if tsel = 2 then some .row
  else if tsel = 3 then some .trip
  else if tsel = 4 then some .link
  else none

end Sys2Proof.Machine
end

