-- ==== Sys2Proof/Machine/Buffer.lean ====
section
/-! DEFINITION. Buffer.lean: the meanings of family 2, the packet-buffer commands PBWR, PBRD and PBCLR
(spec/43_regs_buffer.md R110 to R112). -/

namespace Sys2Proof.Machine

/-- PBWR idx, val (R110). -/
def execPbwr (idx val : BitVec 8) (s : State) : Result :=
  if pbIndexOk idx then .next (complete 0 0 (s.setPb (s.pb.write idx.toNat val)))
  else .next (raiseFault .eRange s)

/-- PBRD idx (R111). -/
def execPbrd (idx : BitVec 8) (s : State) : Result :=
  if pbIndexOk idx then .next (complete 0 ((s.pb.read idx.toNat).setWidth 32) s)
  else .next (raiseFault .eRange s)

/-- PBCLR (R112): the 40 writes of 0x00 are one atomic step. -/
def execPbclr (s : State) : Result :=
  .next (complete 0 0 (s.setPb (s.pb.store 0 (List.replicate Config.pbLen 0))))

end Sys2Proof.Machine
end

