-- ==== Sys2Proof/Machine/Codecs.lean ====
section
/-! DEFINITION. Codecs.lean: the meanings of family 1, the byte and word codecs H84ENC, H84DEC, H24ENC, H24DEC,
PARENC, PARDEC and BITREV. They write STAT and ERR only. -/

namespace Sys2Proof.Machine

/-- H84ENC imm4 (spec/40_hamming84.md R76). -/
def execH84enc (imm4 : BitVec 4) (s : State) : Result :=
  .next (complete 0 ((h84e imm4).setWidth 32) s)

/-- H84DEC imm8 (R77): an invalid byte is a data condition, never a fault. -/
def execH84dec (imm8 : BitVec 8) (s : State) : Result :=
  .next (complete (h84decFlags (h84d imm8) h84Invalid) ((h84d imm8).setWidth 32) s)

/-- H24ENC imm18 (spec/41_hamming2418.md R91). -/
def execH24enc (imm18 : BitVec 18) (s : State) : Result :=
  .next (complete 0 ((h24enc imm18).setWidth 32) s)

/-- H24DEC imm24 (R92): an uncorrectable word is a data condition, never a fault. -/
def execH24dec (imm24 : BitVec 24) (s : State) : Result :=
  .next (complete (h24decFlags (h24dec imm24)) (h24dec imm24) s)

/-- PARENC imm7 (spec/42_parity_bitrev.md R99). -/
def execParenc (imm7 : BitVec 7) (s : State) : Result :=
  .next (complete 0 ((oddParity (imm7.setWidth 8)).setWidth 32) s)

/-- PARDEC imm8 (R100). -/
def execPardec (imm8 : BitVec 8) (s : State) : Result :=
  .next (complete 0 ((stripParity imm8).setWidth 32) s)

/-- BITREV imm8 (R102). -/
def execBitrev (imm8 : BitVec 8) (s : State) : Result :=
  .next (complete 0 ((reverseBits imm8).setWidth 32) s)

end Sys2Proof.Machine
end

