-- ==== Sys2Proof/Machine/Fields.lean ====
section
/-! DEFINITION. Fields.lean: the meanings of family 3, the field unit: FDWR, FDCLR, EXTRACT, INSERT, TRIPGET and
TRIPPUT (spec/44_fields.md R118 to R131). -/

namespace Sys2Proof.Machine

/-- FDWR idx, byte, lsb, w, off [, LAST] (R118): the geometry (E_OPER) is checked before the index (E_RANGE),
R117 and spec/60_exceptions.md R171. -/
def execFdwr (idx : BitVec 6) (last : BitVec 1) (byte : BitVec 6) (lsb wm1 : BitVec 3) (off : BitVec 5)
    (s : State) : Result :=
  let body := segBody last byte lsb wm1 off
  if segFits body then
    if segInPb body then .next (complete 0 0 (s.writeFd idx { valid := true, body := body }))
    else .next (raiseFault .eRange s)
  else .next (raiseFault .eOper s)

/-- FDCLR (R119). -/
def execFdclr (s : State) : Result := .next (complete 0 0 s.clearFd)

/-- EXTRACT start (R121): E_FD from the walk leaves ACC as it is. -/
def execExtract (start : BitVec 6) (s : State) : Result :=
  match walk s.fd start with
  | none => .next (raiseFault .eFd s)
  | some segs =>
    .next (complete 0 ((gatherField s.pb segs).setWidth 32) (s.setAcc (gatherField s.pb segs)))

/-- INSERT start (R122): E_FD from the walk comes before the first write. -/
def execInsert (start : BitVec 6) (s : State) : Result :=
  match walk s.fd start with
  | none => .next (raiseFault .eFd s)
  | some segs => .next (complete 0 0 (s.setPb (scatterField s.acc segs s.pb)))

/-- The response of TRIPGET: `v | extmode(v) << 18 | row(v) << 24`, bits 31:25 are 0 (R130). -/
def tripgetResponse (v : BitVec 18) : Word :=
  v.setWidth 32 ||| (tripletExtMode v).setWidth 32 <<< 18 ||| (if tripletRow v then 1#32 <<< 24 else 0)

/-- TRIPGET k (R130). -/
def execTripget (k : BitVec 4) (s : State) : Result :=
  if slotOk k then .next (complete 0 (tripgetResponse (tripletAt s.pb k.toNat)) s)
  else .next (raiseFault .eRange s)

/-- TRIPPUT k, imm18 (R131). -/
def execTripput (k : BitVec 4) (imm18 : BitVec 18) (s : State) : Result :=
  if slotOk k then .next (complete 0 0 (s.setPb (s.pb.store (slotBase k.toNat) (bytesOfTriplet imm18))))
  else .next (raiseFault .eRange s)

end Sys2Proof.Machine
end

