-- ==== Sys2Proof/Machine/Registers.lean ====
section
/-! DEFINITION. Registers.lean: the meanings of family 0, the register commands NOP, REGRD, REGWR, WCLR and
ACCSET (spec/43_regs_buffer.md R104 to R109). -/

namespace Sys2Proof.Machine

/-- NOP (R104). -/
def execNop (s : State) : Result := .next (complete 0 0 s)

/-- REGRD r (R105): E_RANGE when r names no register; a successful read writes neither STAT nor ERR
(spec/10_state.md R21). -/
def execRegrd (r : BitVec 8) (s : State) : Result :=
  match regOfNumber r with
  | none => .next (raiseFault .eRange s)
  | some n => .next (s.respond (readReg n s))

/-- REGWR r, val (R106, R107): E_RANGE when r names no register or a read-only one. -/
def execRegwr (r : BitVec 8) (val : BitVec 16) (s : State) : Result :=
  match regOfNumber r with
  | none => .next (raiseFault .eRange s)
  | some n =>
    match writeMask n with
    | none => .next (raiseFault .eRange s)
    | some wmask => .next (complete 0 0 (writeReg n (val &&& wmask) s))

/-- WCLR (R108). -/
def execWclr (s : State) : Result := .next (complete 0 0 ((s.setWarn 0).setWcnt 0))

/-- ACCSET imm24 (R109). -/
def execAccset (imm24 : BitVec 24) (s : State) : Result := .next (complete 0 0 (s.setAcc imm24))

end Sys2Proof.Machine
end

