-- ==== Sys2Proof/Machine/Serializer.lean ====
section
/-! DEFINITION. Serializer.lean: the record layouts in both directions and the meanings of family 4: SER, DESER
and SDROP (spec/45_serializer.md R134 to R165). -/

namespace Sys2Proof.Machine

/-! ### Serializing -/

/-- The low four bits of a PB byte, what a Hamming 8/4 byte carries (R150). -/
def lowNibble (b : Byte) : BitVec 4 := b.extractLsb' 0 4

/-- The two address bytes of a record (R140). -/
def addressBytes (addr : BitVec 8) : List Byte := [h84e (addressNibble0 addr), h84e (addressNibble1 addr)]

/-- The eight header nibbles N(0) to N(7) from PAGE, SUB and CTL, with `C(n) = CTL[n-4]` (R144). -/
def headerNibbles (page : BitVec 8) (sub : BitVec 16) (ctl : BitVec 11) : List (BitVec 4) :=
  let c := fun (n : Nat) => (ctl >>> (n - 4)).setWidth 4 &&& 1#4
  [ page.extractLsb' 0 4,
    page.extractLsb' 4 4,
    sub.extractLsb' 0 4,
    (sub.extractLsb' 4 3).setWidth 4 ||| c 4 <<< 3,
    sub.extractLsb' 8 4,
    (sub.extractLsb' 12 2).setWidth 4 ||| c 5 <<< 2 ||| c 6 <<< 3,
    c 7 ||| c 8 <<< 1 ||| c 9 <<< 2 ||| c 10 <<< 3,
    c 11 ||| c 12 <<< 1 ||| c 13 <<< 2 ||| c 14 <<< 3 ]

/-- The three stream bytes of a 24/18 codeword, least significant first (R145, spec/20_memory.md R43). -/
def codewordBytes (c : BitVec 24) : List Byte := [c.extractLsb' 0 8, c.extractLsb' 8 8, c.extractLsb' 16 8]

/-- ROW: 40 odd-parity bytes (R141). -/
def rowPayload (pb : Memory) : List Byte := (pb.load 0 Config.pbLen).map oddParity

/-- HDR: eight Hamming 8/4 bytes for PAGE, SUB and CTL, then 32 odd-parity bytes for PB[8..39] (R143). -/
def hdrPayload (page : BitVec 8) (sub : BitVec 16) (ctl : BitVec 11) (pb : Memory) : List Byte :=
  (headerNibbles page sub ctl).map h84e ++ (pb.load 8 32).map oddParity

/-- TRIP: the designation nibble, then 13 Hamming 24/18 codewords (R145). -/
def tripPayload (pb : Memory) : List Byte :=
  h84e (lowNibble (pb.read 0)) ::
    (List.range Config.nTriplets).flatMap fun k => codewordBytes (h24enc (tripletAt pb k))

/-- LINK: 38 Hamming 8/4 bytes, then PB[38] and PB[39] unchanged: LINK_TAIL (R5, R146, R147). -/
def linkPayload (pb : Memory) : List Byte :=
  (pb.load 0 (Config.linkTailNibble + 1)).map (fun b => h84e (lowNibble b)) ++
    pb.load Config.linkTailPlain (Config.pbLen - Config.linkTailPlain)

/-- `rec[2..41]` as the template says (R137). -/
def payloadBytes (t : Template) (s : State) : List Byte :=
  match t with
  | .hdr => hdrPayload s.page s.sub s.ctl s.pb
  | .row => rowPayload s.pb
  | .trip => tripPayload s.pb
  | .link => linkPayload s.pb

/-- The 42 bytes of a record (R135). -/
def recordBytes (t : Template) (s : State) : List Byte := addressBytes s.addr ++ payloadBytes t s

/-- `MODE.WRAP` (spec/10_state.md R17). -/
def wraps (s : State) : Bool := s.mode.getLsbD 0

/-- The three bytes of SYNC_PREFIX (R148; open, log entry 4). -/
def syncBytes : List Byte := [Config.syncPrefix 0, Config.syncPrefix 1, Config.syncPrefix 2]

/-- Framing on output: the record as it is, or the three bytes of SYNC_PREFIX and then every byte of the record
bit-reversed (R148). -/
def frameBytes (wrap : Bool) (record : List Byte) : List Byte :=
  if wrap then syncBytes ++ record.map reverseBits else record

/-- The template SER uses: the forced one, or the mux on ADDR.PKT and PB[0] (R149, R139). -/
def serTemplate (tsel : BitVec 3) (s : State) : Option Template :=
  if tsel = 0 then mux (addrPkt s.addr) (lowNibble (s.pb.read 0)) else forced tsel

/-- SER tsel (R149). -/
def execSer (tsel : BitVec 3) (s : State) : Result :=
  if tselLegal tsel then
    match serTemplate tsel s with
    | none => .next (raiseFault .eNotmpl s)
    | some t =>
      .next (complete 0 (t.number.setWidth 32) (s.emit (frameBytes (wraps s) (recordBytes t s))))
  else .next (raiseFault .eOper s)

/-! ### Deserializing -/

/-- What decoding a part of a record gives: the PB bytes, the flags raised and the number of items substituted
or given up (R161). -/
structure Piece where
  /-- the bytes for PB, in order -/
  bytes : List Byte
  /-- the OR of the flags raised -/
  flags : BitVec 8
  /-- the number of substituted or abandoned items -/
  count : Nat
deriving DecidableEq, Repr

/-- Bytes decoded with nothing to report. -/
def cleanPiece (bytes : List Byte) : Piece := { bytes := bytes, flags := 0, count := 0 }

/-- Two parts one after the other: the flags are OR-ed and the counts added (R161, spec/60_exceptions.md R179). -/
def Piece.append (p q : Piece) : Piece :=
  { bytes := p.bytes ++ q.bytes, flags := p.flags ||| q.flags, count := p.count + q.count }

/-- A list of parts as one. -/
def joinPieces : List Piece → Piece
  | [] => cleanPiece []
  | p :: rest => p.append (joinPieces rest)

/-- The number of stream bytes of one record in the current framing: 42, or 45 when MODE.WRAP = 1 (R151). -/
def streamLen (s : State) : Nat := if wraps s then Config.prefixLen + Config.recLen else Config.recLen

/-- The record bytes of the stream bytes: with MODE.WRAP = 1 the first three are removed without comparison and
the others bit-reversed (R160). -/
def unframeBytes (wrap : Bool) (bytes : List Byte) : List Byte :=
  if wrap then (bytes.drop Config.prefixLen).map reverseBits else bytes

/-- `raw[0..41]`: the record at the head of SIN, looked at without removing it; none when SIN is shorter than a
record (R151, R158). -/
def headRecord (s : State) : Option (List Byte) :=
  if s.sin.length < streamLen s then none else some (unframeBytes (wraps s) (s.sin.take (streamLen s)))

/-- `raw[i]`. -/
def rawAt (raw : List Byte) (i : Nat) : Byte := raw.getD i 0

/-- The neutral link's six nibbles F, F, F, 7, F, 3, NEUTRAL_LINK (R5, R157). -/
def neutralLink : List Byte := [0x0F, 0x0F, 0x0F, 0x07, 0x0F, 0x03]

/-- ADDR from the two address bytes, or none when either decodes to the sentinel (R151, R152). -/
def decodeAddress (raw : List Byte) : Option (BitVec 8) :=
  let a0 := h84d (rawAt raw 0)
  let a1 := h84d (rawAt raw 1)
  if a0 = h84Invalid ∨ a1 = h84Invalid then none
  else some (addrOfNibbles (lowNibble a0) (lowNibble a1))

/-- Template resolution (R153): the forced one; TRIP for packets 26 to 28 with an invalid designation byte; else
the mux. -/
def resolve (tsel : BitVec 3) (pkt : BitVec 5) (dcv : Byte) : Option Template :=
  if tsel ≠ 0 then forced tsel
  else if (pkt = 26 ∨ pkt = 27 ∨ pkt = 28) ∧ dcv = h84Invalid then some .trip
  else mux pkt (lowNibble dcv)

/-- One header or link-tail nibble: an invalid one is zeroed, flagged and counted (R155, R157). -/
def decodeNibble (b : Byte) : Piece :=
  if h84d b = h84Invalid then { bytes := [0], flags := flagInv8 ||| flagSZero, count := 1 }
  else cleanPiece [h84d b]

/-- One triplet of packet `pkt` (R156): uncorrectable, it becomes the no-op triplet in packet 26 and zero in any
other packet; corrected, it is flagged and not counted. -/
def decodeTriplet (pkt : BitVec 5) (c : BitVec 24) : Piece :=
  let r := h24dec c
  if r.getLsbD 31 then
    if pkt = 26 then
      { bytes := bytesOfTriplet noopTriplet, flags := flagUnc24 ||| flagSTrip, count := 1 }
    else { bytes := bytesOfTriplet 0, flags := flagUnc24 ||| flagSZero, count := 1 }
  else
    { bytes := bytesOfTriplet (r.extractLsb' 0 18)
      flags := if r.getLsbD 30 then flagCor24 else 0
      count := 0 }

/-- The codeword of slot k of a record: `raw[3+3k] | raw[4+3k] << 8 | raw[5+3k] << 16` (R156). -/
def codewordAt (raw : List Byte) (k : Nat) : BitVec 24 :=
  (rawAt raw (3 + 3 * k)).setWidth 24 ||| (rawAt raw (4 + 3 * k)).setWidth 24 <<< 8 |||
    (rawAt raw (5 + 3 * k)).setWidth 24 <<< 16

/-- Link record j: replaced whole by the neutral link when any of its six bytes is invalid (R157). -/
def decodeLink (raw : List Byte) (j : Nat) : Piece :=
  let d := (List.range Config.linkLen).map fun n => h84d (rawAt raw (3 + 6 * j + n))
  if h84Invalid ∈ d then { bytes := neutralLink, flags := flagInv8 ||| flagSLink, count := 1 }
  else cleanPiece d

/-- TRIP or LINK with an invalid designation byte: PB becomes FF and 39 zeros (R159). -/
def abandonedPayload : Piece :=
  { bytes := 0xFF :: List.replicate 39 0, flags := flagInv8 ||| flagDcInv, count := 1 }

/-- ROW (R154): the parity bit is dropped and not checked. -/
def decodeRow (raw : List Byte) : Piece :=
  cleanPiece ((List.range Config.pbLen).map fun i => stripParity (rawAt raw (i + 2)))

/-- The eight header nibbles of a record, in order (R155). -/
def decodeHeader (raw : List Byte) : Piece :=
  joinPieces ((List.range 8).map fun j => decodeNibble (rawAt raw (2 + j)))

/-- HDR (R155): PB[0..7] are spaces, PB[8..39] the characters; the flags and the count are the nibbles'. -/
def decodeHdr (raw : List Byte) : Piece :=
  { bytes := List.replicate 8 0x20 ++ (List.range 32).map fun i => stripParity (rawAt raw (i + 10))
    flags := (decodeHeader raw).flags
    count := (decodeHeader raw).count }

/-- TRIP (R156, R159). -/
def decodeTrip (pkt : BitVec 5) (raw : List Byte) : Piece :=
  if h84d (rawAt raw 2) = h84Invalid then abandonedPayload
  else
    (cleanPiece [h84d (rawAt raw 2)]).append
      (joinPieces ((List.range Config.nTriplets).map fun k => decodeTriplet pkt (codewordAt raw k)))

/-- LINK (R157, R159): the six links, then LINK_TAIL, the tail nibble and two bytes unchanged (R147); payload byte i is
record byte i + 2 (R136). -/
def decodeLinks (raw : List Byte) : Piece :=
  if h84d (rawAt raw 2) = h84Invalid then abandonedPayload
  else
    (cleanPiece [h84d (rawAt raw 2)]).append
      ((joinPieces ((List.range Config.nLinks).map (decodeLink raw))).append
        ((decodeNibble (rawAt raw (Config.linkTailNibble + 2))).append
          (cleanPiece [rawAt raw (Config.linkTailPlain + 2), rawAt raw (Config.linkTailPlain + 3)])))

/-- What the template makes of `raw[2..41]` (R151). -/
def decodePayload (t : Template) (pkt : BitVec 5) (raw : List Byte) : Piece :=
  match t with
  | .hdr => decodeHdr raw
  | .row => decodeRow raw
  | .trip => decodeTrip pkt raw
  | .link => decodeLinks raw

/-- N(j) of a record, after the zeroing of an invalid nibble (R155). -/
def headerNibble (raw : List Byte) (j : Nat) : BitVec 4 := lowNibble ((decodeHeader raw).bytes.getD j 0)

/-- PAGE from a header record: `N(0) | N(1) << 4` (R155). -/
def headerPage (raw : List Byte) : BitVec 8 :=
  (headerNibble raw 0).setWidth 8 ||| (headerNibble raw 1).setWidth 8 <<< 4

/-- SUB from a header record: `N(2) | (N(3) & 7) << 4 | N(4) << 8 | (N(5) & 3) << 12` (R155). -/
def headerSub (raw : List Byte) : BitVec 16 :=
  (headerNibble raw 2).setWidth 16 ||| (headerNibble raw 3 &&& 7).setWidth 16 <<< 4 |||
    (headerNibble raw 4).setWidth 16 <<< 8 ||| (headerNibble raw 5 &&& 3).setWidth 16 <<< 12

/-- CTL from a header record: `N(3)[3] | N(5)[2] << 1 | N(5)[3] << 2 | N(6) << 3 | N(7) << 7` (R155). -/
def headerCtl (raw : List Byte) : BitVec 11 :=
  ((headerNibble raw 3).extractLsb' 3 1).setWidth 11 ||| ((headerNibble raw 5).extractLsb' 2 1).setWidth 11 <<< 1 |||
    ((headerNibble raw 5).extractLsb' 3 1).setWidth 11 <<< 2 ||| (headerNibble raw 6).setWidth 11 <<< 3 |||
    (headerNibble raw 7).setWidth 11 <<< 7

/-- PAGE, SUB and CTL are written by the HDR template only (R151, R155). -/
def storeHeader (t : Template) (raw : List Byte) (s : State) : State :=
  match t with
  | .hdr => ((s.setPage (headerPage raw)).setSub (headerSub raw)).setCtl (headerCtl raw)
  | .row => s
  | .trip => s
  | .link => s

/-- The response of DESER: `t | count << 8` (R151). The largest count of one DESER is 13 (R161). -/
def deserResponse (t : BitVec 3) (count : Nat) : Word := t.setWidth 32 ||| (BitVec.ofNat 32 count <<< 8)

/-- The end of a DESER that completes: WARN and WCNT, the response, STAT and ERR (R151, R161). -/
def finishDeser (t : BitVec 3) (flags : BitVec 8) (count : Nat) (s : State) : State :=
  complete flags (deserResponse t count)
    ((s.setWarn (warnAfter s.warn flags)).setWcnt (wcntAfter s.wcnt count))

/-- A record with an invalid address: removed from SIN, nothing decoded (R152). -/
def dropRecord (s : State) : State :=
  finishDeser 0 (flagInv8 ||| flagAddrInv) 1 (s.takeSin (streamLen s))

/-- A record whose template is known: removed from SIN, ADDR and PB written, PAGE, SUB and CTL too for HDR
(R151). -/
def acceptRecord (t : Template) (addr : BitVec 8) (raw : List Byte) (s : State) : State :=
  let p := decodePayload t (addrPkt addr) raw
  finishDeser t.number p.flags p.count
    (storeHeader t raw (((s.takeSin (streamLen s)).setAddr addr).setPb (s.pb.store 0 p.bytes)))

/-- DESER tsel (R151): E_OPER, E_TRUNC and E_NOTMPL in that order, each before the first write. -/
def execDeser (tsel : BitVec 3) (s : State) : Result :=
  if tselLegal tsel then
    match headRecord s with
    | none => .next (raiseFault .eTrunc s)
    | some raw =>
      match decodeAddress raw with
      | none => .next (dropRecord s)
      | some addr =>
        match resolve tsel (addrPkt addr) (h84d (rawAt raw 2)) with
        | none => .next (raiseFault .eNotmpl s)
        | some t => .next (acceptRecord t addr raw s)
  else .next (raiseFault .eOper s)

/-- SDROP (R162): one record removed unread. -/
def execSdrop (s : State) : Result :=
  if s.sin.length < streamLen s then .next (raiseFault .eTrunc s)
  else .next (complete 0 0 (s.takeSin (streamLen s)))

end Sys2Proof.Machine
end

