-- ==== Sys2Proof/Machine/Dispatch.lean ====
section
/-! DEFINITION. Dispatch.lean: the meaning of every command, one direct call an arm (spec/30_encoding.md R63). -/

namespace Sys2Proof.Machine

/-- The effect of one well-formed command on the state. -/
def exec (i : Instr) (s : State) : Host.Outcome State Fault Refusal :=
  match i with
  | .nop => Sys2Proof.Machine.execNop s
  | .regrd r => Sys2Proof.Machine.execRegrd r s
  | .regwr r val => Sys2Proof.Machine.execRegwr r val s
  | .wclr => Sys2Proof.Machine.execWclr s
  | .accset imm24 => Sys2Proof.Machine.execAccset imm24 s
  | .h84enc imm4 => Sys2Proof.Machine.execH84enc imm4 s
  | .h84dec imm8 => Sys2Proof.Machine.execH84dec imm8 s
  | .h24enc imm18 => Sys2Proof.Machine.execH24enc imm18 s
  | .h24dec imm24 => Sys2Proof.Machine.execH24dec imm24 s
  | .parenc imm7 => Sys2Proof.Machine.execParenc imm7 s
  | .pardec imm8 => Sys2Proof.Machine.execPardec imm8 s
  | .bitrev imm8 => Sys2Proof.Machine.execBitrev imm8 s
  | .pbwr idx val => Sys2Proof.Machine.execPbwr idx val s
  | .pbrd idx => Sys2Proof.Machine.execPbrd idx s
  | .pbclr => Sys2Proof.Machine.execPbclr s
  | .fdwr idx last byte lsb wm1 off => Sys2Proof.Machine.execFdwr idx last byte lsb wm1 off s
  | .fdclr => Sys2Proof.Machine.execFdclr s
  | .extract start => Sys2Proof.Machine.execExtract start s
  | .insert start => Sys2Proof.Machine.execInsert start s
  | .tripget k => Sys2Proof.Machine.execTripget k s
  | .tripput k imm18 => Sys2Proof.Machine.execTripput k imm18 s
  | .ser tsel => Sys2Proof.Machine.execSer tsel s
  | .deser tsel => Sys2Proof.Machine.execDeser tsel s
  | .sdrop => Sys2Proof.Machine.execSdrop s

end Sys2Proof.Machine
end

