-- ==== Sys2Proof/Machine/Port.lean ====
section
/-! DEFINITION. Port.lean: what the host does to the block through its three ports and the reset input
(spec/20_memory.md R41, spec/70_reset_and_hazards.md R186). -/

namespace Sys2Proof.Machine

/-- A command word at the command port (R41 a): decoded (spec/30_encoding.md R62), then executed as one atomic
step (spec/00_scope.md R8), or refused with the decoding fault and nothing else changed (R64, R65, R172). -/
def runCommand (w : Word) (s : State) : Result :=
  match decode w with
  | .ok i => exec i s
  | .eOpc => .next (raiseFault .eOpc s)
  | .eOper => .next (raiseFault .eOper s)

/-- The reset input, applied between two commands (R186): every item of the block's state takes its reset value
whatever it was (R187). The two fields that are the host's, the events still to come and the responses it has
received, are kept (R189; log entry 12). -/
def resetBlock (s : State) : State :=
  { State.reset with port := s.port, responses := s.responses }

/-- One thing the host does (R41, R186). -/
def takeEvent (e : HostEvent) (s : State) : Result :=
  match e with
  | .command w => runCommand w s
  | .append b => .next (s.appendSin b)
  | .reset => .next (resetBlock s)

/-- A command word presented as the host's next event (R41 a). -/
def presentCommand (w : Word) (s : State) : State := s.setPort (.command w :: s.port)

end Sys2Proof.Machine
end

