-- ==== Sys2Proof/Machine/Step.lean ====
section
/-! DEFINITION. Step.lean: one step of the block takes the host's next event from the port (spec/20_memory.md R41,
R48; spec/70_reset_and_hazards.md R199). -/

namespace Sys2Proof.Machine

/-- One step: the host's next event, taken from the front of the port; with none the block is idle and holds all
its state (spec/60_exceptions.md R183). -/
def step (s : State) : Host.Outcome State Fault Refusal :=
  match s.port with
  | [] => .next s
  | e :: rest => takeEvent e (s.setPort rest)

/-- `s` with the command word of a table row (`nbits` bits `w`) presented at the command port as the host's next
event, so that the very next step decodes and runs it (log entry 2). -/
def State.withFetchWord (s : State) (nbits w : Nat) : State := presentCommand (tableWord nbits w) s

end Sys2Proof.Machine
end

