-- ==== Sys2Proof/Safety.lean ====
section
/-! DEFINITION. Safety.lean: the terms that claims about TPC use: the invariant of the state that runs from reset
keep, a program and its observation (spec/70_reset_and_hazards.md R199), and the shapes of descriptors. -/

namespace Sys2Proof.Machine

/-- Every valid entry of FD has a well-formed geometry (spec/44_fields.md R117). -/
def fdGood (fd : Vector FdEntry Config.fdLen) : Bool :=
  fd.toList.all fun e => !e.valid || segGood e.body

/-- The bits of the registers that always read as 0: WARN bits 2:0 (spec/10_state.md R22), SUB bits 7, 14 and 15
(R26); and the ERR code 7 that is never written (spec/60_exceptions.md R169). -/
def registersGood (s : State) : Bool :=
  decide (s.warn &&& 0x07 = 0) && decide (s.sub &&& ~~~subMask = 0) && decide (s.err ≠ 7)

/-- The invariant: the packet buffer is canonical and inside PB[0..39], every valid descriptor entry is
well-formed, the reserved register bits are 0. -/
def State.inv (s : State) : Bool := s.pb.wf && fdGood s.fd && registersGood s

/-- A program: for each position the bytes the host appends to SIN before the command, and the command word
(R199). -/
abbrev Program := List (List Byte × Word)

/-- What the host does to run a program, in order (R199). -/
def Program.events (p : Program) : List HostEvent :=
  p.flatMap fun c => c.1.map HostEvent.append ++ [HostEvent.command c.2]

/-- The number of command words among a list of host events. -/
def commandCount : List HostEvent → Nat
  | [] => 0
  | .command _ :: rest => commandCount rest + 1
  | .append _ :: rest => commandCount rest
  | .reset :: rest => commandCount rest

/-- The bits of PB byte `a` that a segment lies on (spec/44_fields.md R115). -/
def segPbBits (body : BitVec 18) (a : Nat) : Byte :=
  if segByte body = a then widthMask (segWidth body) <<< segLsb body else 0

/-- The bits of the field value that a segment stands for (R115). -/
def segValueBits (body : BitVec 18) : BitVec Config.accW :=
  (widthMask (segWidth body)).setWidth Config.accW <<< segOff body

/-- The bits of the field value that a descriptor covers (R123). -/
def coveredBits (segs : List (BitVec 18)) : BitVec Config.accW :=
  segs.foldl (fun m body => m ||| segValueBits body) 0

/-- No two segments of a descriptor share a bit of PB or a bit of the field value: the disjoint segments of
R123. -/
def segsDisjoint (segs : List (BitVec 18)) : Prop :=
  segs.Pairwise fun b c =>
    (∀ a, segPbBits b a &&& segPbBits c a = 0) ∧ segValueBits b &&& segValueBits c = 0

/-! ### What a command leaves, in the words of the rules -/

/-- `s` after a command that completes with `flags` and the response `rsp` (spec/43_regs_buffer.md R103); every
other item is as in `s`. -/
def finished (flags : BitVec 8) (rsp : Word) (s : State) : State :=
  { s with err := 0, stat := flags, responses := s.responses ++ [rsp] }

/-- `s` after a fault with the given code (spec/60_exceptions.md R172); every other item is as in `s`. -/
def faulted (code : BitVec 3) (s : State) : State :=
  { s with err := code, stat := 0, responses := s.responses ++ [0] }

/-- `s` after a DESER that completes with `flags`, `count` and template number `t` (spec/45_serializer.md R151,
R161). -/
def deserialized (flags : BitVec 8) (count : Nat) (t : Nat) (s : State) : State :=
  finished flags (BitVec.ofNat 32 (t + 256 * count))
    { s with
      warn := s.warn ||| (flags &&& 0xF8)
      wcnt := BitVec.ofNat 16 (min 0xFFFF (s.wcnt.toNat + count)) }

/-- The words with opcode `op` and a 1 among the `n` bits from bit `lo` up are refused with E_OPER
(spec/30_encoding.md R65). -/
def refusesReserved (op : BitVec 8) (lo n : Nat) : Prop :=
  ∀ w : Word, w.extractLsb' 24 8 = op → w.extractLsb' lo n ≠ 0 → decode w = .eOper

/-- The opcodes of spec/30_encoding.md R63. -/
def listedOpcodes : List (BitVec 8) :=
  [0x00, 0x01, 0x02, 0x03, 0x04, 0x10, 0x11, 0x12, 0x13, 0x14, 0x15, 0x16, 0x20, 0x21, 0x22,
   0x30, 0x31, 0x32, 0x33, 0x34, 0x35, 0x40, 0x41, 0x42]

/-! ### Descriptor runs (spec/44_fields.md R116, R120) -/

/-- The entry `FD[i]`. -/
def fdAt (fd : Vector FdEntry Config.fdLen) (i : Nat) : FdEntry := fd.toList.getD i FdEntry.empty

/-- The `n` entries from `start` up are valid and none of them is LAST. -/
def openRun (fd : Vector FdEntry Config.fdLen) (start n : Nat) : Prop :=
  ∀ k < n, (fdAt fd (start + k)).valid = true ∧ segLast (fdAt fd (start + k)).body = false

/-- The entries `start` to `start + n` are a descriptor: all valid, the last one LAST and no other (R116). -/
def isDescriptor (fd : Vector FdEntry Config.fdLen) (start n : Nat) : Prop :=
  start + n < 64 ∧ openRun fd start n ∧ (fdAt fd (start + n)).valid = true ∧
    segLast (fdAt fd (start + n)).body = true

/-- The run from `start` is broken: it meets an entry that is not valid, or passes entry 63, before an entry with
LAST (R120, spec/60_exceptions.md R169). -/
def brokenRun (fd : Vector FdEntry Config.fdLen) (start : Nat) : Prop :=
  (∃ n, start + n < 64 ∧ openRun fd start n ∧ (fdAt fd (start + n)).valid = false) ∨
    openRun fd start (64 - start)

/-- The bodies of the entries `start` to `start + n`, in order. -/
def runBodies (fd : Vector FdEntry Config.fdLen) (start n : Nat) : List (BitVec 18) :=
  (List.range (n + 1)).map fun k => (fdAt fd (start + k)).body

/-! ### Records -/

/-- SIN begins with `record` in the framing that MODE.WRAP selects, and `rest` follows (spec/45_serializer.md R135,
R148, R160): in capture-wrapper framing any three bytes stand first and the 42 are bit-reversed. -/
def holdsRecord (s : State) (record rest : List Byte) : Prop :=
  record.length = 42 ∧
    ((s.mode = 0 ∧ s.sin = record ++ rest) ∨
      (s.mode = 1 ∧ ∃ three : List Byte, three.length = 3 ∧ s.sin = three ++ record.map reverseBits ++ rest))

/-- `H84D[record[i]]`. -/
def nibbleOf (record : List Byte) (i : Nat) : Byte := h84d (record.getD i 0)

/-- Neither address byte is invalid (R151). -/
def addressValid (record : List Byte) : Prop := nibbleOf record 0 ≠ 0xFF ∧ nibbleOf record 1 ≠ 0xFF

/-- `PKT = (a0 >> 3) | (a1 << 1)` of a record (R140). -/
def recordPkt (record : List Byte) : Nat := (nibbleOf record 0).toNat / 8 + 2 * (nibbleOf record 1).toNat

/-- `ADDR = MAG << 5 | PKT` with `MAG = a0 & 7` (R140, R151). -/
def recordAddr (record : List Byte) : BitVec 8 :=
  BitVec.ofNat 8 (32 * ((nibbleOf record 0).toNat % 8) + recordPkt record)

/-- Header nibble N(j) of a record, 0 when its byte is invalid (R155). -/
def headerDigit (record : List Byte) (j : Nat) : Nat :=
  if nibbleOf record (2 + j) = 0xFF then 0 else (nibbleOf record (2 + j)).toNat

/-- Bit `i` of a number, as 0 or 1. -/
def bitOf (n i : Nat) : Nat := n / 2 ^ i % 2

/-- The 24/18 result of triplet k of a record (R156). -/
def tripletResult (record : List Byte) (k : Nat) : Word :=
  h24dec (BitVec.ofNat 24 ((record.getD (3 + 3 * k) 0).toNat + 256 * (record.getD (4 + 3 * k) 0).toNat +
    65536 * (record.getD (5 + 3 * k) 0).toNat))

/-- The triplet value that DESER stores for slot k of a record (R156). -/
def tripletValue (record : List Byte) (k : Nat) : Nat :=
  if (tripletResult record k).getLsbD 31 then (if recordPkt record = 26 then 0x007A9 else 0)
  else (tripletResult record k).toNat % 2 ^ 18

/-- Link record j of a record has an invalid byte (R157). -/
def linkBad (record : List Byte) (j : Nat) : Bool :=
  (List.range 6).any fun n => nibbleOf record (3 + 6 * j + n) == 0xFF

/-- The mask that a template puts on payload byte `i` on its way out and back (spec/45_serializer.md R150,
R165). -/
def carriedBits (t : Template) (i : Nat) : Byte :=
  match t with
  | .hdr => 0x7F
  | .row => 0x7F
  | .trip => if i = 0 then 0x0F else 0x3F
  | .link => if i ≤ 37 then 0x0F else 0xFF

end Sys2Proof.Machine
end

