-- ==== Sys2Proof/Certificates/Slice0/Obligations.lean ====
section
/-! DEFINITION. Obligations.lean: the statements about TPC, each from a numbered rule of spec/. -/

open Sys2Proof Sys2Proof.Machine

/-! ### Encoding (spec/30_encoding.md) -/

/-- R53 to R63: decoding the word of a well-formed command gives that command, at every value of every operand. -/
def Obligations.DecodeOfEncodeIsTheCommand : Prop :=
  ∀ i : Instr, i.wellFormed = true → decode (encode i) = .ok i

/-- R53 to R63: a word that decodes to a command is that command's word, and the command is well-formed. -/
def Obligations.EncodeOfDecodeIsTheWord : Prop :=
  ∀ (w : Word) (i : Instr), decode w = .ok i → i.wellFormed = true ∧ encode i = w

/-- R62: unlisted opcode, E_OPC; a reserved payload bit set, E_OPER; a reserved `tsel`, E_OPER; otherwise the
command of the opcode's row with its fields, so every word is exactly one of the three. -/
def Obligations.EveryWordIsACommandOrIsRefused : Prop :=
  ∀ w : Word,
    (opcodeOf w ∉ listedOpcodes → decode w = .eOpc) ∧
    (∀ i : Instr, i.opcode = opcodeOf w → w &&& i.mask ≠ fieldAt i.opcode 24 → decode w = .eOper) ∧
    ((opcodeOf w = 0x40 ∨ opcodeOf w = 0x41) → 5 ≤ (w.extractLsb' 0 3).toNat → decode w = .eOper) ∧
    (∀ i : Instr, i.opcode = opcodeOf w → w &&& i.mask = fieldAt i.opcode 24 →
      ((opcodeOf w = 0x40 ∨ opcodeOf w = 0x41) → (w.extractLsb' 0 3).toNat < 5) →
      ∃ j : Instr, decode w = .ok j ∧ j.opcode = i.opcode ∧ encode j = w)

/-- Words that the spec writes out decode to the commands it names (R76, R91, R105, R106, R110, R118, R130, R131,
R149, R111, R121, R162). -/
def Obligations.WordsOfTheSpecDecode : Prop :=
  decode 0x10000007 = .ok (.h84enc 7) ∧ decode 0x12012345 = .ok (.h24enc 0x12345) ∧
  decode 0x01010000 = .ok (.regrd 1) ∧ decode 0x0205003A = .ok (.regwr 5 0x3A) ∧
  decode 0x20002780 = .ok (.pbwr 39 0x80) ∧ decode 0x30065944 = .ok (.fdwr 1 1 11 1 2 4) ∧
  decode 0x34300000 = .ok (.tripget 12) ∧ decode 0x353007A9 = .ok (.tripput 12 0x7A9) ∧
  decode 0x40000002 = .ok (.ser 2) ∧ decode 0x3200003F = .ok (.extract 63) ∧
  decode 0x42000000 = .ok .sdrop ∧ decode 0x43000000 = .eOpc ∧ decode 0x40000005 = .eOper

/-- R64: a word whose opcode is not listed faults E_OPC and changes nothing else. -/
def Obligations.UnlistedOpcodeFaultsEOpc : Prop :=
  ∀ (s : State) (w : Word) (rest : List HostEvent), s.port = .command w :: rest →
    w.extractLsb' 24 8 ∉ listedOpcodes →
    step s = .next (faulted 1 { s with port := rest })

/-- R65: a word with a listed opcode and a 1 in a reserved bit faults E_OPER. -/
def Obligations.ReservedBitFaultsEOper : Prop :=
  ∀ (s : State) (w : Word) (rest : List HostEvent) (i : Instr), s.port = .command w :: rest →
    w.extractLsb' 24 8 = i.opcode → w &&& i.mask ≠ fieldAt i.opcode 24 →
    step s = .next (faulted 2 { s with port := rest })

/-! ### The machine as a whole -/

/-- R8, R41, R62: when the next command word decodes to a command, the step takes the word from the port and is
that command's effect. -/
def Obligations.StepRunsTheDecodedCommand : Prop :=
  ∀ (s : State) (w : Word) (rest : List HostEvent) (i : Instr), s.port = .command w :: rest →
    decode w = .ok i → step s = exec i { s with port := rest }

/-- The host's other events, in the model's one-event step (log entries 1 and 13, the model's choice): an appended
byte goes to the tail of SIN; a reset leaves the two fields of the model's own, the events still to come and the
responses returned, as they are (log entry 12, the model's choice); with no event the block holds all its state. -/
def Obligations.HostEventsAndIdleStepInTheModel : Prop :=
  (∀ (s : State) (b : Byte) (rest : List HostEvent), s.port = .append b :: rest →
    step s = .next { s with port := rest, sin := s.sin ++ [b] }) ∧
  (∀ (s : State) (rest : List HostEvent), s.port = .reset :: rest →
    ∃ t, step s = .next t ∧ t.port = rest ∧ t.responses = s.responses) ∧
  (∀ s : State, s.port = [] → step s = .next s)

/-- R187: after reset every item of the block's state has the value of R33, and what reset leaves does not depend on
the state before it. The FD bodies, which the spec leaves unspecified, and the two fields of the model's own are left
out of the comparison. -/
def Obligations.ResetGivesTheResetState : Prop :=
  ∀ (s : State) (rest : List HostEvent), s.port = .reset :: rest →
    ∃ t : State, step s = .next t ∧ (∀ a, t.pb.read a = 0) ∧ (∀ i < 64, (fdAt t.fd i).valid = false) ∧
      t.acc = 0 ∧ t.mode = 0 ∧ t.stat = 0 ∧ t.err = 0 ∧ t.warn = 0 ∧ t.wcnt = 0 ∧ t.addr = 0 ∧ t.page = 0 ∧
      t.sub = 0 ∧ t.ctl = 0 ∧ t.sin = [] ∧ t.sout = [] ∧
      (∀ (s' t' : State) (rest' : List HostEvent), s'.port = .reset :: rest' → step s' = .next t' →
        { t' with fd := t.fd, port := t.port, responses := t.responses } = t)

/-- R190: every command has a defined result in the reset state, and the notable ones are these. -/
def Obligations.FirstCommandAfterResetHasItsResult : Prop :=
  (∀ i : Instr, ∃ t, exec i State.reset = .next t) ∧
  (∀ idx : BitVec 8, idx.toNat < 40 → exec (.pbrd idx) State.reset = .next (finished 0 0 State.reset)) ∧
  (∀ start : BitVec 6, exec (.extract start) State.reset = .next (faulted 4 State.reset) ∧
    exec (.insert start) State.reset = .next (faulted 4 State.reset)) ∧
  (∀ tsel : BitVec 3, tsel.toNat < 5 → exec (.deser tsel) State.reset = .next (faulted 6 State.reset)) ∧
  exec .sdrop State.reset = .next (faulted 6 State.reset) ∧
  exec (.ser 0) State.reset = .next (finished 0 1
    { State.reset with sout := List.replicate 10 0x15 ++ List.replicate 32 0x80 }) ∧
  (∀ k : BitVec 4, k.toNat < 13 →
    exec (.tripget k) State.reset = .next (finished 0 0x00800000 State.reset))

/-- R185: for every state, every SIN content and every command word there is a next state, and the command word
gets one response. -/
def Obligations.EveryCommandWordGetsANextStateAndAResponse : Prop :=
  (∀ s : State, ∃ t, step s = .next t) ∧
  (∀ (s : State) (w : Word) (rest : List HostEvent), s.port = .command w :: rest →
    ∃ t r, step s = .next t ∧ t.port = rest ∧ t.responses = s.responses ++ [r])

/-- R198 and R199: every list of host events runs to its end, and each command word in it has had one response. That
the host's events are a list taken one a step (log entry 1), that the responses are kept as a list (log entry 3) and
that a reset among the events keeps that list (log entry 12) is the model's choice. -/
def Obligations.EveryHostScriptRunsToItsEnd : Prop :=
  ∀ s : State, ∃ t, Sys2Proof.core.run s.port.length s = .next t ∧ t.port = [] ∧
    t.responses.length = s.responses.length + commandCount s.port

/-- The reset state meets the invariant. -/
def Obligations.ResetMeetsTheInvariant : Prop := State.reset.inv = true

/-- Every step keeps the invariant: the packet buffer canonical and inside PB[0..39] (R34), every valid descriptor
entry of well-formed geometry (R117), WARN bits 2:0 and SUB bits 7, 14, 15 zero (R22, R26), ERR never 7 (R169). -/
def Obligations.EveryStepKeepsTheInvariant : Prop :=
  ∀ s t : State, s.inv = true → step s = .next t → t.inv = true

/-- R172: a faulting command writes ERR, STAT and the response and nothing else. A command other than REGRD has
faulted when it leaves ERR not 0 (R20); a REGRD has faulted when it changes STAT or ERR (R21); a word that decoding
refuses faults with E_OPC or E_OPER (R62). -/
def Obligations.FaultChangesOnlyErrStatAndResponse : Prop :=
  (∀ (i : Instr) (s t : State), (∀ r, i ≠ .regrd r) → exec i s = .next t → t.err ≠ 0 → t = faulted t.err s) ∧
  (∀ (r : BitVec 8) (s t : State), exec (.regrd r) s = .next t → (t.stat ≠ s.stat ∨ t.err ≠ s.err) →
    t = faulted t.err s) ∧
  (∀ (s : State) (w : Word) (rest : List HostEvent), s.port = .command w :: rest →
    (decode w = .eOpc → step s = .next (faulted 1 { s with port := rest })) ∧
    (decode w = .eOper → step s = .next (faulted 2 { s with port := rest })))

/-- R21: every command writes both STAT and ERR at its end, so neither depends on its old value, but for a REGRD
that completes, which writes neither; a REGRD that faults writes both. -/
def Obligations.EveryCommandButASuccessfulRegrdWritesStatAndErr : Prop :=
  (∀ (i : Instr) (s t : State) (a : BitVec 8) (b : BitVec 3), (∀ r, i ≠ .regrd r) → exec i s = .next t →
    exec i { s with stat := a, err := b } = .next t) ∧
  (∀ (r : BitVec 8) (s : State), r.toNat < 10 →
    ∃ t, exec (.regrd r) s = .next t ∧ t.stat = s.stat ∧ t.err = s.err) ∧
  (∀ (r : BitVec 8) (s : State), 10 ≤ r.toNat → exec (.regrd r) s = .next (faulted 3 s)) ∧
  (∀ (s : State) (w : Word) (rest : List HostEvent), s.port = .command w :: rest → w.extractLsb' 24 8 = 0x01 →
    w.extractLsb' 0 16 ≠ 0 → step s = .next (faulted 2 { s with port := rest }))

/-- The table of R176: which command can set which STAT flag. -/
def Obligations.OnlyThreeCommandsSetStatFlags : Prop :=
  ∀ (i : Instr) (s t : State), (∀ r, i ≠ .regrd r) → exec i s = .next t → t.stat ≠ 0 →
    (∃ b, i = .h84dec b ∧ t.stat = 0x01) ∨ (∃ c, i = .h24dec c ∧ (t.stat = 0x02 ∨ t.stat = 0x04)) ∨
      (∃ k, i = .deser k)

/-- The "Written by" column of R16: each numbered register is unchanged by every command that the table does not
name for it. -/
def Obligations.RegistersAreWrittenOnlyByTheirCommands : Prop :=
  ∀ (i : Instr) (s t : State), exec i s = .next t →
    ((∀ r v, i ≠ .regwr r v) → t.mode = s.mode) ∧
    ((∀ k, i ≠ .deser k) → i ≠ .wclr → t.warn = s.warn ∧ t.wcnt = s.wcnt) ∧
    ((∀ r v, i ≠ .regwr r v) → (∀ k, i ≠ .deser k) →
      t.addr = s.addr ∧ t.page = s.page ∧ t.sub = s.sub ∧ t.ctl = s.ctl) ∧
    ((∀ v, i ≠ .accset v) → (∀ k, i ≠ .extract k) → t.acc = s.acc)

/-- R13, R14 and R15: PB is written by PBWR, PBCLR, INSERT, TRIPPUT and DESER only, FD by FDWR and FDCLR only, SIN
is taken from by DESER and SDROP only, SOUT grows by SER only, by 42 or 45 bytes. -/
def Obligations.MemoriesAndStreamsAreWrittenOnlyByTheirCommands : Prop :=
  ∀ (i : Instr) (s t : State), exec i s = .next t →
    ((∀ a v, i ≠ .pbwr a v) → i ≠ .pbclr → (∀ k, i ≠ .insert k) → (∀ k v, i ≠ .tripput k v) →
      (∀ k, i ≠ .deser k) → t.pb = s.pb) ∧
    ((∀ a b c d e f, i ≠ .fdwr a b c d e f) → i ≠ .fdclr → t.fd = s.fd) ∧
    ((∀ k, i ≠ .deser k) → i ≠ .sdrop → t.sin = s.sin) ∧
    (∃ n, t.sin = s.sin.drop n) ∧
    ((∀ k, i ≠ .ser k) → t.sout = s.sout) ∧
    (∃ out : List Byte, t.sout = s.sout ++ out ∧
      (out.length = 0 ∨ (s.mode = 0 ∧ out.length = 42) ∨ (s.mode = 1 ∧ out.length = 45)))

/-- A read of the packet buffer after a write gives the written byte and every other byte as before; the write
keeps the canonical form; canonical buffers that read the same are the same. -/
def Obligations.PacketBufferReadsBackWhatWasWritten : Prop :=
  (∀ (m : Memory) (a x : Nat) (v : Byte), m.wf = true → a < 40 →
    (m.write a v).wf = true ∧ (m.write a v).read x = if x = a then v else m.read x) ∧
  (∀ m m' : Memory, m.wf = true → m'.wf = true → (∀ x, m.read x = m'.read x) → m = m')

/-! ### The codes -/

/-- R74: entry b of H84D is the data of the codeword within one bit of b, and the sentinel when there is none. -/
def Obligations.Hamming84DecodesToTheNearestCodeword : Prop :=
  ∀ b : Byte, (∀ d : BitVec 4, popcount8 (b ^^^ h84e d) ≤ 1 → h84d b = d.setWidth 8) ∧
    ((∀ d : BitVec 4, 1 < popcount8 (b ^^^ h84e d)) → h84d b = 0xFF)

/-- R75: the properties (a) to (e) of the 8/4 tables. -/
def Obligations.Hamming84CorrectsOneAndDetectsTwo : Prop :=
  (∀ d e : BitVec 4, d ≠ e → popcount8 (h84e d ^^^ h84e e) = 4 ∨ popcount8 (h84e d ^^^ h84e e) = 8) ∧
  ((List.range 256).countP fun b => h84d (BitVec.ofNat 8 b) ≠ 0xFF) = 144 ∧
  (∀ b : Byte, h84d b = 0xFF → (∀ d, 2 ≤ popcount8 (b ^^^ h84e d)) ∧ ∃ d, popcount8 (b ^^^ h84e d) = 2) ∧
  (∀ d : BitVec 4, popcount8 (h84e d) % 2 = 1) ∧
  (∀ b : Byte, popcount8 b % 2 = 0 → ∃ d, popcount8 (b ^^^ h84e d) = 1 ∧ h84d b = d.setWidth 8) ∧
  (∀ b : Byte, popcount8 b % 2 = 1 → (∃ d, b = h84e d ∧ h84d b = d.setWidth 8) ∨ h84d b = 0xFF) ∧
  (∀ (d : BitVec 4) (b : Byte), popcount8 (b ^^^ h84e d) = 3 →
    h84d b ≠ 0xFF ∧ h84d b ≠ d.setWidth 8)

/-- R79 and R73: decoding an encoded nibble gives it back, and the generating equations give every entry of the
encode table. -/
def Obligations.Hamming84DecodeOfEncodeAndItsEquations : Prop :=
  ∀ d : BitVec 4, h84d (h84e d) = d.setWidth 8 ∧ h84e d = h84Equations d

/-- R86: bit t of the syndrome is the failure of test t; the syndrome of a codeword is 0, and that of a word with one
or two wrong bits is the number that R86 gives. -/
def Obligations.Hamming2418SyndromeNamesTheWrongBit : Prop :=
  (∀ (c : BitVec 24) (t : Nat), t < 6 → (h24Syndrome c).getLsbD t = parityFails c t) ∧
  ∀ v : BitVec 18, h24Syndrome (h24enc v) = 0 ∧
    (∀ n, 1 ≤ n → n ≤ 23 → (h24Syndrome (h24enc v ^^^ (1#24 <<< (n - 1)))).toNat = 32 + n) ∧
    (h24Syndrome (h24enc v ^^^ (1#24 <<< 23))).toNat = 32 ∧
    (∀ i < 24, ∀ j < 24, i ≠ j →
      1 ≤ (h24Syndrome (h24enc v ^^^ (1#24 <<< i) ^^^ (1#24 <<< j))).toNat ∧
      (h24Syndrome (h24enc v ^^^ (1#24 <<< i) ^^^ (1#24 <<< j))).toNat ≤ 31)

/-- R90: the properties (a) to (d) of the 24/18 code: round trip, every single wrong bit corrected, every pair
detected, three wrong bits reported as uncorrectable exactly for the syndromes 56 to 63 and else wrongly
corrected. -/
def Obligations.Hamming2418CorrectsOneAndDetectsTwo : Prop :=
  ∀ v : BitVec 18, h24dec (h24enc v) = v.setWidth 32 ∧
    (∀ i < 24, h24dec (h24enc v ^^^ (1#24 <<< i)) = 0x40000000 ||| v.setWidth 32) ∧
    (∀ i < 24, ∀ j < 24, i ≠ j → h24dec (h24enc v ^^^ (1#24 <<< i) ^^^ (1#24 <<< j)) = 0x80000000) ∧
    (∀ i < 24, ∀ j < 24, ∀ k < 24, i ≠ j → i ≠ k → j ≠ k →
      let c := h24enc v ^^^ (1#24 <<< i) ^^^ (1#24 <<< j) ^^^ (1#24 <<< k)
      if 56 ≤ (h24Syndrome c).toNat then h24dec c = 0x80000000
      else ∃ u : BitVec 18, u ≠ v ∧ h24dec c = 0x40000000 ||| u.setWidth 32)

/-- R97, R98 and R101: the parity-encoded byte has an odd number of ones, ignores bit 7 and gives its seven bits
back; bit reversal takes bit i to bit 7-i and is its own inverse. -/
def Obligations.ParityAndReversalOfAByte : Prop :=
  ∀ x : Byte, popcount8 (oddParity x) % 2 = 1 ∧ oddParity x &&& 0x7F = x &&& 0x7F ∧
    oddParity x = oddParity (x &&& 0x7F) ∧ stripParity x = x &&& 0x7F ∧
    (∀ i < 8, (reverseBits x).getLsbD i = x.getLsbD (7 - i)) ∧ reverseBits (reverseBits x) = x

/-- R76 and R77: H84ENC and H84DEC. -/
def Obligations.H84encAndH84decResults : Prop :=
  (∀ (d : BitVec 4) (s : State), exec (.h84enc d) s = .next (finished 0 ((h84e d).setWidth 32) s)) ∧
  (∀ (b : BitVec 8) (s : State), exec (.h84dec b) s =
    .next (finished (if h84d b = 0xFF then 0x01 else 0) ((h84d b).setWidth 32) s)) ∧
  refusesReserved 0x10 4 20 ∧ refusesReserved 0x11 8 16

/-- R91 and R92: H24ENC and H24DEC. -/
def Obligations.H24encAndH24decResults : Prop :=
  (∀ (v : BitVec 18) (s : State), exec (.h24enc v) s = .next (finished 0 ((h24enc v).setWidth 32) s)) ∧
  (∀ (c : BitVec 24) (s : State), ∃ flags, exec (.h24dec c) s = .next (finished flags (h24dec c) s) ∧
    ∀ i, flags.getLsbD i = ((i = 1 ∧ (h24dec c).getLsbD 30) ∨ (i = 2 ∧ (h24dec c).getLsbD 31) : Bool)) ∧
  refusesReserved 0x12 18 6

/-- R99, R100 and R102: PARENC, PARDEC and BITREV. -/
def Obligations.ParencPardecAndBitrevResults : Prop :=
  (∀ (d : BitVec 7) (s : State), exec (.parenc d) s =
    .next (finished 0 ((oddParity (d.setWidth 8)).setWidth 32) s)) ∧
  (∀ (b : BitVec 8) (s : State), exec (.pardec b) s = .next (finished 0 ((b &&& 0x7F).setWidth 32) s)) ∧
  (∀ (b : BitVec 8) (s : State), exec (.bitrev b) s = .next (finished 0 ((reverseBits b).setWidth 32) s)) ∧
  refusesReserved 0x14 7 17 ∧ refusesReserved 0x15 8 16 ∧ refusesReserved 0x16 8 16

/-! ### Registers and packet buffer -/

/-- R104, R108 and R109: NOP, WCLR and ACCSET. -/
def Obligations.NopWclrAndAccsetResults : Prop :=
  (∀ s : State, exec .nop s = .next (finished 0 0 s)) ∧
  (∀ s : State, exec .wclr s = .next (finished 0 0 { s with warn := 0, wcnt := 0 })) ∧
  (∀ (v : BitVec 24) (s : State), exec (.accset v) s = .next (finished 0 0 { s with acc := v })) ∧
  refusesReserved 0x00 0 24 ∧ refusesReserved 0x03 0 24

/-- R105: a REGRD of register 0 to 9 answers it zero-extended and writes neither STAT nor ERR; 10 to 255 fault
E_RANGE. -/
def Obligations.RegrdResult : Prop :=
  (∀ s : State, ∀ p ∈ [((0 : BitVec 8), s.mode.toNat), (1, s.stat.toNat), (2, s.err.toNat), (3, s.warn.toNat),
      (4, s.wcnt.toNat), (5, s.addr.toNat), (6, s.page.toNat), (7, s.sub.toNat), (8, s.ctl.toNat),
      (9, s.acc.toNat)],
    exec (.regrd p.1) s = .next { s with responses := s.responses ++ [BitVec.ofNat 32 p.2] }) ∧
  (∀ (r : BitVec 8) (s : State), 10 ≤ r.toNat → exec (.regrd r) s = .next (faulted 3 s)) ∧
  refusesReserved 0x01 0 16

/-- R106 and R107: REGWR of the five writable registers keeps the bits of the write mask; every other number faults
E_RANGE. -/
def Obligations.RegwrResult : Prop :=
  (∀ (val : BitVec 16) (s : State),
    exec (.regwr 0 val) s = .next (finished 0 0 { s with mode := (val &&& 0x0001).setWidth 1 }) ∧
    exec (.regwr 5 val) s = .next (finished 0 0 { s with addr := (val &&& 0x00FF).setWidth 8 }) ∧
    exec (.regwr 6 val) s = .next (finished 0 0 { s with page := (val &&& 0x00FF).setWidth 8 }) ∧
    exec (.regwr 7 val) s = .next (finished 0 0 { s with sub := val &&& 0x3F7F }) ∧
    exec (.regwr 8 val) s = .next (finished 0 0 { s with ctl := (val &&& 0x07FF).setWidth 11 })) ∧
  (∀ (r : BitVec 8) (val : BitVec 16) (s : State), r ∉ [(0 : BitVec 8), 5, 6, 7, 8] →
    exec (.regwr r val) s = .next (faulted 3 s))

/-- R110: PBWR writes one byte, every other byte as before; an index above 39 faults E_RANGE. -/
def Obligations.PbwrResult : Prop :=
  (∀ (idx val : BitVec 8) (s : State), s.pb.wf = true → idx.toNat < 40 →
    ∃ m : Memory, exec (.pbwr idx val) s = .next (finished 0 0 { s with pb := m }) ∧
      ∀ a, m.read a = if a = idx.toNat then val else s.pb.read a) ∧
  (∀ (idx val : BitVec 8) (s : State), 40 ≤ idx.toNat → exec (.pbwr idx val) s = .next (faulted 3 s)) ∧
  refusesReserved 0x20 16 8

/-- R111 and R112: PBRD answers one byte and changes nothing it reads; an index above 39 faults E_RANGE; PBCLR makes
every byte 0 and so gives PB its reset contents. -/
def Obligations.PbrdAndPbclrResults : Prop :=
  (∀ (idx : BitVec 8) (s : State), idx.toNat < 40 →
    exec (.pbrd idx) s = .next (finished 0 ((s.pb.read idx.toNat).setWidth 32) s)) ∧
  (∀ (idx : BitVec 8) (s : State), 40 ≤ idx.toNat → exec (.pbrd idx) s = .next (faulted 3 s)) ∧
  refusesReserved 0x21 16 8 ∧ refusesReserved 0x21 0 8 ∧
  (∀ s : State, s.pb.wf = true → exec .pbclr s = .next (finished 0 0 { s with pb := State.reset.pb })) ∧
  (∀ a, State.reset.pb.read a = 0) ∧ refusesReserved 0x22 0 24

/-! ### The field unit (spec/44_fields.md) -/

/-- R118: FDWR refuses a segment that leaves its byte or ACC (E_OPER), then a byte index above 39 (E_RANGE), and
else writes one valid entry with the body W[17:0], every other entry as before. -/
def Obligations.FdwrResult : Prop :=
  ∀ (idx : BitVec 6) (last : BitVec 1) (byte : BitVec 6) (lsb wm1 : BitVec 3) (off : BitVec 5) (s : State),
    if 8 < lsb.toNat + (wm1.toNat + 1) ∨ 24 < off.toNat + (wm1.toNat + 1) then
      exec (.fdwr idx last byte lsb wm1 off) s = .next (faulted 2 s)
    else if 39 < byte.toNat then exec (.fdwr idx last byte lsb wm1 off) s = .next (faulted 3 s)
    else ∃ fd, exec (.fdwr idx last byte lsb wm1 off) s = .next (finished 0 0 { s with fd := fd }) ∧
      fdAt fd idx.toNat =
        ⟨true, (encode (.fdwr idx last byte lsb wm1 off)).extractLsb' 0 18⟩ ∧
      ∀ i < 64, i ≠ idx.toNat → fdAt fd i = fdAt s.fd i

/-- R119: FDCLR makes every entry invalid; FD after it equals FD after reset, as R119 says (its bodies, which nothing
shows, are the model's choice of log entry 5 in both places). -/
def Obligations.FdclrResult : Prop :=
  (∀ s : State, exec .fdclr s = .next (finished 0 0 { s with fd := State.reset.fd })) ∧
  (∀ i < 64, (fdAt State.reset.fd i).valid = false) ∧ refusesReserved 0x31 0 24

/-- R120: a start index names a descriptor or its run is broken, never both; a broken run faults E_FD in EXTRACT
and in INSERT before ACC or PB is touched. -/
def Obligations.BrokenRunFaultsEFd : Prop :=
  (∀ (fd : Vector FdEntry 64) (start : BitVec 6),
    (brokenRun fd start.toNat ∧ ¬ ∃ n, isDescriptor fd start.toNat n) ∨
      (¬ brokenRun fd start.toNat ∧ ∃ n, isDescriptor fd start.toNat n)) ∧
  (∀ (start : BitVec 6) (s : State), brokenRun s.fd start.toNat →
    exec (.extract start) s = .next (faulted 4 s) ∧ exec (.insert start) s = .next (faulted 4 s))

/-- R121: EXTRACT of a descriptor ORs its segments into ACC and answers the value; a broken run faults E_FD. -/
def Obligations.ExtractResult : Prop :=
  (∀ (start : BitVec 6) (n : Nat) (s : State), isDescriptor s.fd start.toNat n →
    let value : BitVec 24 := (runBodies s.fd start.toNat n).foldl (fun acc b =>
      acc ||| (((s.pb.read (segByte b) >>> segLsb b) &&& BitVec.ofNat 8 (2 ^ segWidth b - 1)).setWidth 24
        <<< segOff b)) 0
    exec (.extract start) s = .next (finished 0 (value.setWidth 32) { s with acc := value })) ∧
  (∀ (start : BitVec 6) (s : State), brokenRun s.fd start.toNat →
    exec (.extract start) s = .next (faulted 4 s)) ∧
  refusesReserved 0x32 6 18

/-- R122 for a descriptor of well-formed segments (an invariant of the machine, R117): after INSERT every bit of PB
that no segment lies on is as before, and where a segment lies the bit is the ACC bit of the last such segment; a
broken run faults E_FD. -/
def Obligations.InsertResult : Prop :=
  (∀ (start : BitVec 6) (n : Nat) (s : State), s.pb.wf = true → isDescriptor s.fd start.toNat n →
    (∀ b ∈ runBodies s.fd start.toNat n, segGood b = true) →
    ∃ m : Memory, exec (.insert start) s = .next (finished 0 0 { s with pb := m }) ∧
      ∀ a j, j < 8 → (m.read a).getLsbD j =
        match (runBodies s.fd start.toNat n).reverse.find? fun b =>
            decide (segByte b = a ∧ segLsb b ≤ j ∧ j < segLsb b + segWidth b) with
        | none => (s.pb.read a).getLsbD j
        | some b => s.acc.getLsbD (segOff b + (j - segLsb b))) ∧
  (∀ (start : BitVec 6) (s : State), brokenRun s.fd start.toNat →
    exec (.insert start) s = .next (faulted 4 s)) ∧
  refusesReserved 0x33 6 18

/-- R123: with disjoint segments EXTRACT after INSERT gives ACC masked to the covered bits, and INSERT after EXTRACT
leaves PB unchanged. -/
def Obligations.DisjointDescriptorRoundTrips : Prop :=
  ∀ (start : BitVec 6) (n : Nat) (s : State), s.pb.wf = true → isDescriptor s.fd start.toNat n →
    (∀ b ∈ runBodies s.fd start.toNat n, segGood b = true) → segsDisjoint (runBodies s.fd start.toNat n) →
    (∃ s1 s2 : State, exec (.insert start) s = .next s1 ∧ exec (.extract start) s1 = .next s2 ∧
      s2.acc = s.acc &&& coveredBits (runBodies s.fd start.toNat n)) ∧
    (∃ s1 s2 : State, exec (.extract start) s = .next s1 ∧ exec (.insert start) s1 = .next s2 ∧ s2.pb = s.pb)

/-- R130 and R129: TRIPGET answers the value of the slot, its extended mode and its row flag; a slot above 12 faults
E_RANGE. -/
def Obligations.TripgetResult : Prop :=
  (∀ (k : BitVec 4) (s : State), k.toNat < 13 →
    let v := (s.pb.read (1 + 3 * k.toNat)).toNat % 64 + 64 * ((s.pb.read (2 + 3 * k.toNat)).toNat % 64) +
      4096 * ((s.pb.read (3 + 3 * k.toNat)).toNat % 64)
    let row := if 40 ≤ v % 64 then 1 else 0
    let extmode := if 40 ≤ v % 64 then v / 64 % 32 else v / 64 % 32 + 32
    exec (.tripget k) s = .next (finished 0 (BitVec.ofNat 32 (v + 2 ^ 18 * extmode + 2 ^ 24 * row)) s)) ∧
  (∀ (k : BitVec 4) (s : State), 13 ≤ k.toNat → exec (.tripget k) s = .next (faulted 3 s)) ∧
  refusesReserved 0x34 22 2 ∧ refusesReserved 0x34 0 18

/-- R131: TRIPPUT writes the three groups of its operand into the slot's three bytes, every other byte as before; a
slot above 12 faults E_RANGE. -/
def Obligations.TripputResult : Prop :=
  (∀ (k : BitVec 4) (v : BitVec 18) (s : State), s.pb.wf = true → k.toNat < 13 →
    ∃ m : Memory, exec (.tripput k v) s = .next (finished 0 0 { s with pb := m }) ∧
      m.read (1 + 3 * k.toNat) = (v.extractLsb' 0 6).setWidth 8 ∧
      m.read (2 + 3 * k.toNat) = (v.extractLsb' 6 6).setWidth 8 ∧
      m.read (3 + 3 * k.toNat) = (v.extractLsb' 12 6).setWidth 8 ∧
      ∀ a, (a < 1 + 3 * k.toNat ∨ 3 + 3 * k.toNat < a) → m.read a = s.pb.read a) ∧
  (∀ (k : BitVec 4) (v : BitVec 18) (s : State), 13 ≤ k.toNat →
    exec (.tripput k v) s = .next (faulted 3 s)) ∧
  refusesReserved 0x35 22 2

/-! ### Serializing (spec/45_serializer.md) -/

/-- R138: the mux, for every packet number and designation code. -/
def Obligations.MuxChoosesByPacketAndDesignation : Prop :=
  ∀ (pkt : BitVec 5) (dc : BitVec 4), mux pkt dc =
    if pkt.toNat = 0 then some .hdr
    else if 1 ≤ pkt.toNat ∧ pkt.toNat ≤ 24 then some .row
    else if pkt.toNat = 26 ∨ pkt.toNat = 28 then some .trip
    else if pkt.toNat = 27 ∧ dc.toNat ≤ 3 then some .link
    else if pkt.toNat = 27 ∧ 4 ≤ dc.toNat then some .trip
    else none

/-- R149: SER of a legal operand with a template appends the framed record to SOUT and answers the template's number;
AUTO without a template faults E_NOTMPL, a reserved operand E_OPER, and neither emits. -/
def Obligations.SerResult : Prop :=
  (∀ (tsel : BitVec 3) (s : State) (t : Template),
    ((tsel = 0 ∧ mux (s.addr.extractLsb' 0 5) ((s.pb.read 0).extractLsb' 0 4) = some t) ∨ tsel = t.number) →
    exec (.ser tsel) s = .next (finished 0 (t.number.setWidth 32) { s with
      sout := s.sout ++ (if s.mode = 0 then recordBytes t s
        else [Config.syncPrefix 0, Config.syncPrefix 1, Config.syncPrefix 2] ++
          (recordBytes t s).map reverseBits) })) ∧
  (∀ s : State, mux (s.addr.extractLsb' 0 5) ((s.pb.read 0).extractLsb' 0 4) = none →
    exec (.ser 0) s = .next (faulted 5 s)) ∧
  (∀ (tsel : BitVec 3) (s : State), 5 ≤ tsel.toNat → exec (.ser tsel) s = .next (faulted 2 s)) ∧
  refusesReserved 0x40 3 21

/-- R140: a record has 42 bytes and begins with the two address bytes, whatever the template. -/
def Obligations.RecordBeginsWithTheAddress : Prop :=
  ∀ (t : Template) (s : State), (recordBytes t s).length = 42 ∧
    (recordBytes t s).getD 0 0 = h84e (BitVec.ofNat 4 (s.addr.toNat / 32 + 8 * (s.addr.toNat % 2))) ∧
    (recordBytes t s).getD 1 0 = h84e (BitVec.ofNat 4 (s.addr.toNat % 32 / 2)) ∧
    h84d ((recordBytes t s).getD 0 0) = BitVec.ofNat 8 (s.addr.toNat / 32 + 8 * (s.addr.toNat % 2)) ∧
    h84d ((recordBytes t s).getD 1 0) = BitVec.ofNat 8 (s.addr.toNat % 32 / 2) ∧
    recordAddr (recordBytes t s) = s.addr

/-- R143 and R144: the HDR record carries the eight nibbles of PAGE, SUB and CTL, then PB[8..39] with odd parity. -/
def Obligations.HdrRecordCarriesHeaderNibbles : Prop :=
  ∀ s : State,
    let bit := fun n => bitOf s.ctl.toNat (n - 4)
    let nibbles : List Nat :=
      [s.page.toNat % 16, s.page.toNat / 16, s.sub.toNat % 16, s.sub.toNat / 16 % 8 + 8 * bit 4,
       s.sub.toNat / 256 % 16, s.sub.toNat / 4096 % 4 + 4 * bit 5 + 8 * bit 6,
       bit 7 + 2 * bit 8 + 4 * bit 9 + 8 * bit 10, bit 11 + 2 * bit 12 + 4 * bit 13 + 8 * bit 14]
    (∀ j < 8, (recordBytes .hdr s).getD (2 + j) 0 = h84e (BitVec.ofNat 4 (nibbles.getD j 0))) ∧
    (∀ i, 8 ≤ i → i < 40 → (recordBytes .hdr s).getD (i + 2) 0 = oddParity (s.pb.read i))

/-- R145: the TRIP record carries the designation nibble and the thirteen 24/18 codewords. -/
def Obligations.TripRecordCarriesCodewords : Prop :=
  ∀ s : State, (recordBytes .trip s).getD 2 0 = h84e (BitVec.ofNat 4 ((s.pb.read 0).toNat % 16)) ∧
    ∀ k < 13,
      let v := (s.pb.read (1 + 3 * k)).toNat % 64 + 64 * ((s.pb.read (2 + 3 * k)).toNat % 64) +
        4096 * ((s.pb.read (3 + 3 * k)).toNat % 64)
      let c := h24enc (BitVec.ofNat 18 v)
      (recordBytes .trip s).getD (3 + 3 * k) 0 = c.extractLsb' 0 8 ∧
      (recordBytes .trip s).getD (4 + 3 * k) 0 = c.extractLsb' 8 8 ∧
      (recordBytes .trip s).getD (5 + 3 * k) 0 = c.extractLsb' 16 8

/-- R141, R146 and R147: the ROW record carries every payload byte with odd parity; the LINK record carries 38
nibbles and two bytes unchanged. -/
def Obligations.RowAndLinkRecordsCarryTheirBytes : Prop :=
  ∀ s : State, (∀ i < 40, (recordBytes .row s).getD (i + 2) 0 = oddParity (s.pb.read i)) ∧
    (∀ i < 38, (recordBytes .link s).getD (i + 2) 0 = h84e (BitVec.ofNat 4 ((s.pb.read i).toNat % 16))) ∧
    (recordBytes .link s).getD 40 0 = s.pb.read 38 ∧ (recordBytes .link s).getD 41 0 = s.pb.read 39

/-- R150: SER refuses no value with a forced template, and the record depends on each PB byte only through the bits
that its coding carries. -/
def Obligations.SerMasksAndNeverRefusesAValue : Prop :=
  (∀ (t : Template) (s : State), ∃ s', exec (.ser t.number) s = .next s' ∧ s'.err = 0 ∧ s'.pb = s.pb) ∧
  (∀ (t : Template) (s : State) (m : Memory),
    (∀ i < 40, m.read i &&& carriedBits t i = s.pb.read i &&& carriedBits t i) →
    recordBytes t { s with pb := m } = recordBytes t s)

/-! ### Deserializing -/

/-- R158 and the check order of R151: a reserved operand faults E_OPER, a SIN shorter than a record E_TRUNC, AUTO with
a valid address whose packet number has no template E_NOTMPL (R164), and none of them takes a byte. -/
def Obligations.DeserRefusalsTakeNothing : Prop :=
  (∀ (tsel : BitVec 3) (s : State), 5 ≤ tsel.toNat → exec (.deser tsel) s = .next (faulted 2 s)) ∧
  (∀ (tsel : BitVec 3) (s : State), tsel.toNat < 5 → s.sin.length < (if s.mode = 0 then 42 else 45) →
    exec (.deser tsel) s = .next (faulted 6 s)) ∧
  (∀ (s : State) (record rest : List Byte), holdsRecord s record rest → addressValid record →
    recordPkt record ∈ [25, 29, 30, 31] → exec (.deser 0) s = .next (faulted 5 s)) ∧
  refusesReserved 0x41 3 21

/-- R152: a record with an invalid address is removed and nothing decoded: PB, ADDR, PAGE, SUB and CTL keep their
values, STAT is 0x81, the count 1 and the response 0x00000100. -/
def Obligations.InvalidAddressDropsTheRecord : Prop :=
  ∀ (tsel : BitVec 3) (s : State) (record rest : List Byte), tsel.toNat < 5 → holdsRecord s record rest →
    ¬ addressValid record → exec (.deser tsel) s = .next (deserialized 0x81 1 0 { s with sin := rest })

/-- R154: ROW drops the parity bits without a check. -/
def Obligations.DeserRowResult : Prop :=
  ∀ (tsel : BitVec 3) (s : State) (record rest : List Byte), s.pb.wf = true → holdsRecord s record rest →
    addressValid record → (tsel = 2 ∨ (tsel = 0 ∧ 1 ≤ recordPkt record ∧ recordPkt record ≤ 24)) →
    ∃ m : Memory,
      exec (.deser tsel) s = .next (deserialized 0 0 2 { s with sin := rest, addr := recordAddr record, pb := m }) ∧
      (∀ i < 40, m.read i = record.getD (i + 2) 0 &&& 0x7F) ∧ ∀ a, 40 ≤ a → m.read a = s.pb.read a

/-- R155: HDR gives PAGE, SUB and CTL from eight nibbles, an invalid one zeroed and counted, spaces in PB[0..7] and
the characters in PB[8..39]. -/
def Obligations.DeserHdrResult : Prop :=
  ∀ (tsel : BitVec 3) (s : State) (record rest : List Byte), s.pb.wf = true → holdsRecord s record rest →
    addressValid record → (tsel = 1 ∨ (tsel = 0 ∧ recordPkt record = 0)) →
    let bad := (List.range 8).countP fun j => nibbleOf record (2 + j) == 0xFF
    let n := headerDigit record
    ∃ m : Memory,
      exec (.deser tsel) s = .next (deserialized (if bad = 0 then 0 else 0x11) bad 1 { s with
        sin := rest
        addr := recordAddr record
        page := BitVec.ofNat 8 (n 0 + 16 * n 1)
        sub := BitVec.ofNat 16 (n 2 + 16 * (n 3 % 8) + 256 * n 4 + 4096 * (n 5 % 4))
        ctl := BitVec.ofNat 11 (bitOf (n 3) 3 + 2 * bitOf (n 5) 2 + 4 * bitOf (n 5) 3 + 8 * n 6 + 128 * n 7)
        pb := m }) ∧
      (∀ i < 8, m.read i = 0x20) ∧ (∀ i, 8 ≤ i → i < 40 → m.read i = record.getD (i + 2) 0 &&& 0x7F) ∧
      ∀ a, 40 ≤ a → m.read a = s.pb.read a

/-- R156: TRIP decodes thirteen codewords; an uncorrectable one becomes the no-op triplet in packet 26 and zero in any
other packet and is counted; a corrected one is flagged only. -/
def Obligations.DeserTripResult : Prop :=
  ∀ (tsel : BitVec 3) (s : State) (record rest : List Byte), s.pb.wf = true → holdsRecord s record rest →
    addressValid record → nibbleOf record 2 ≠ 0xFF →
    (tsel = 3 ∨ (tsel = 0 ∧ (recordPkt record = 26 ∨ recordPkt record = 28 ∨
      (recordPkt record = 27 ∧ 4 ≤ (nibbleOf record 2).toNat)))) →
    let bad := (List.range 13).countP fun k => (tripletResult record k).getLsbD 31
    let corrected := (List.range 13).any fun k => (tripletResult record k).getLsbD 30
    let flags : BitVec 8 := (if bad = 0 then 0 else if recordPkt record = 26 then 0x0C else 0x14) |||
      (if corrected then 0x02 else 0)
    ∃ m : Memory,
      exec (.deser tsel) s = .next (deserialized flags bad 3 { s with
        sin := rest, addr := recordAddr record, pb := m }) ∧
      m.read 0 = nibbleOf record 2 ∧
      (∀ k < 13, m.read (1 + 3 * k) = BitVec.ofNat 8 (tripletValue record k % 64) ∧
        m.read (2 + 3 * k) = BitVec.ofNat 8 (tripletValue record k / 64 % 64) ∧
        m.read (3 + 3 * k) = BitVec.ofNat 8 (tripletValue record k / 4096)) ∧
      ∀ a, 40 ≤ a → m.read a = s.pb.read a

/-- R157: LINK decodes six link records, each replaced whole by the neutral link when any byte of it is invalid, the
tail nibble, zeroed when invalid, and two bytes unchanged. -/
def Obligations.DeserLinkResult : Prop :=
  ∀ (tsel : BitVec 3) (s : State) (record rest : List Byte), s.pb.wf = true → holdsRecord s record rest →
    addressValid record → nibbleOf record 2 ≠ 0xFF →
    (tsel = 4 ∨ (tsel = 0 ∧ recordPkt record = 27 ∧ (nibbleOf record 2).toNat ≤ 3)) →
    let badLinks := (List.range 6).countP fun j => linkBad record j
    let badTail := if nibbleOf record 39 = 0xFF then 1 else 0
    let flags : BitVec 8 := (if badLinks = 0 then 0 else 0x21) ||| (if badTail = 0 then 0 else 0x11)
    ∃ m : Memory,
      exec (.deser tsel) s = .next (deserialized flags (badLinks + badTail) 4 { s with
        sin := rest, addr := recordAddr record, pb := m }) ∧
      m.read 0 = nibbleOf record 2 ∧
      (∀ j < 6, ∀ n < 6, m.read (1 + 6 * j + n) =
        if linkBad record j then [0xF, 0xF, 0xF, 0x7, 0xF, 0x3].getD n 0 else nibbleOf record (3 + 6 * j + n)) ∧
      m.read 37 = (if nibbleOf record 39 = 0xFF then 0 else nibbleOf record 39) ∧
      m.read 38 = record.getD 40 0 ∧ m.read 39 = record.getD 41 0 ∧ ∀ a, 40 ≤ a → m.read a = s.pb.read a

/-- R159: with the template TRIP or LINK and an invalid designation byte, PB becomes FF and 39 zeros, ADDR is written,
STAT is 0x41 and the count 1. Under AUTO the packets 26 to 28 go the TRIP way (R153). -/
def Obligations.InvalidDesignationAbandonsThePayload : Prop :=
  ∀ (tsel : BitVec 3) (s : State) (record rest : List Byte), s.pb.wf = true → holdsRecord s record rest →
    addressValid record → nibbleOf record 2 = 0xFF →
    (tsel = 3 ∨ tsel = 4 ∨
      (tsel = 0 ∧ (recordPkt record = 26 ∨ recordPkt record = 27 ∨ recordPkt record = 28))) →
    ∃ m : Memory,
      exec (.deser tsel) s = .next (deserialized 0x41 1 (if tsel = 4 then 4 else 3) { s with
        sin := rest, addr := recordAddr record, pb := m }) ∧
      m.read 0 = 0xFF ∧ (∀ i, 1 ≤ i → i < 40 → m.read i = 0) ∧ ∀ a, 40 ≤ a → m.read a = s.pb.read a

/-- R161, R22 and R23: a DESER that completes counts at most 13 items, reports the count in its response, ORs STAT bits
7:3 into WARN and adds the count to WCNT, saturating. -/
def Obligations.DeserAccountsForItsWarnings : Prop :=
  ∀ (tsel : BitVec 3) (s t : State), exec (.deser tsel) s = .next t → t.err = 0 →
    ∃ count template : Nat, count ≤ 13 ∧ template ≤ 4 ∧
      t.responses = s.responses ++ [BitVec.ofNat 32 (template + 256 * count)] ∧
      t.warn = s.warn ||| (t.stat &&& 0xF8) ∧ t.wcnt.toNat = min 0xFFFF (s.wcnt.toNat + count) ∧
      (count = 0 ↔ t.stat &&& 0xF8 = 0)

/-- R160: with MODE.WRAP = 1 the three bytes before a record are removed and not compared, so they change nothing. -/
def Obligations.IncomingPrefixIsNotCompared : Prop :=
  ∀ (tsel : BitVec 3) (s : State) (three three' rest : List Byte), s.mode = 1 → three.length = 3 →
    three'.length = 3 → 42 ≤ rest.length → tsel.toNat < 5 →
    ∀ t : State, exec (.deser tsel) { s with sin := three ++ rest } = .next t → t.err = 0 →
      exec (.deser tsel) { s with sin := three' ++ rest } = .next t

/-- R162: SDROP removes one record unread; SIN shorter than a record faults E_TRUNC. -/
def Obligations.SdropResult : Prop :=
  (∀ s : State, (if s.mode = 0 then 42 else 45) ≤ s.sin.length →
    exec .sdrop s = .next (finished 0 0 { s with sin := s.sin.drop (if s.mode = 0 then 42 else 45) })) ∧
  (∀ s : State, s.sin.length < (if s.mode = 0 then 42 else 45) → exec .sdrop s = .next (faulted 6 s)) ∧
  refusesReserved 0x42 0 24

/-- R165: the bytes that a completed SER emits, given back to DESER with the same operand and MODE, restore the packet
up to the bits that the template carries, with STAT = 0, count 0, the same template, ADDR, PAGE, SUB and CTL. -/
def Obligations.SerializedPacketComesBack : Prop :=
  ∀ (tsel : BitVec 3) (s s1 : State), s.inv = true → s.sin = [] → exec (.ser tsel) s = .next s1 → s1.err = 0 →
    ∃ (t : Template) (out : List Byte) (s2 : State),
      s1.responses = s.responses ++ [t.number.setWidth 32] ∧ s1.sout = s.sout ++ out ∧
      out.length = (if s.mode = 0 then 42 else 45) ∧
      exec (.deser tsel) { s1 with sin := out } = .next s2 ∧
      s2.stat = 0 ∧ s2.err = 0 ∧ s2.responses = s1.responses ++ [t.number.setWidth 32] ∧ s2.sin = [] ∧
      s2.warn = s.warn ∧ s2.wcnt = s.wcnt ∧
      s2.addr = s.addr ∧ s2.page = s.page ∧ s2.sub = s.sub ∧ s2.ctl = s.ctl ∧
      ∀ i < 40, s2.pb.read i = if t = .hdr ∧ i < 8 then 0x20 else s.pb.read i &&& carriedBits t i
end

