-- ==== Sys2Proof/Laws/Codes.lean ====
section
/-! SUPPORT. Laws/Codes.lean: the small laws of the codes: parity sums are linear, decoded nibbles are nibbles. -/

namespace Sys2Proof.Laws

open Sys2Proof Sys2Proof.Machine

/-- A parity sum of an exclusive or is the exclusive or of the parity sums. -/
theorem xorAt_xor (c d : BitVec 24) (l : List Nat) : xorAt (c ^^^ d) l = (xorAt c l ^^ xorAt d l) := by
  induction l with
  | nil => rfl
  | cons n rest ih =>
    simp only [xorAt, ih, BitVec.getLsbD_xor]
    cases c.getLsbD (n - 1) <;> cases d.getLsbD (n - 1) <;> cases xorAt c rest <;> cases xorAt d rest <;> rfl

/-- An entry of the decode table is the sentinel or a nibble (R74). -/
theorem h84d_range (b : Byte) : h84d b = h84Invalid ∨ (h84d b).toNat < 16 := by
  revert b
  decide +kernel

/-- A nibble that is encoded and decoded comes back, and is not the sentinel (R79). -/
theorem h84d_h84e (d : BitVec 4) : h84d (h84e d) = d.setWidth 8 ∧ h84d (h84e d) ≠ h84Invalid := by
  revert d
  decide +kernel

/-- Bit reversal is its own inverse (R101). -/
@[simp] theorem reverseBits_reverseBits (b : Byte) : reverseBits (reverseBits b) = b := by
  revert b
  decide +kernel

/-- Dropping the parity bit keeps the seven data bits (R98). -/
theorem stripParity_eq (b : Byte) : stripParity b = b &&& 0x7F := rfl

/-- With H84_CORRECTS true the decode table is the one that R74 prints. -/
theorem h84DecTable_eq : h84DecTable = h84CorrectingTable := rfl

/-- The parity bit is dropped again (R97, R98). -/
@[simp] theorem stripParity_oddParity (b : Byte) : stripParity (oddParity b) = b &&& 0x7F := by
  revert b
  decide +kernel

end Sys2Proof.Laws
end

