-- ==== Sys2Proof/Laws/Memory.lean ====
section
/-! SUPPORT. Laws/Memory.lean: the laws of byte memory: a read after a write, the canonical form kept by every
operation, and equal reads of canonical memories mean equal memories. -/

namespace Sys2Proof.Laws

open Sys2Proof Sys2Proof.Machine

@[simp] theorem read_nil (a : Nat) : Memory.read [] a = 0 := rfl

theorem read_cell (b : Nat) (w : Byte) (rest : Memory) (a : Nat) :
    Memory.read ((b, w) :: rest) a = if b = a then w else Memory.read rest a := rfl

theorem cons_zero (a : Nat) (m : Memory) : Memory.cons a 0 m = m := if_pos rfl

theorem cons_of_ne {v : Byte} (hv : v ≠ 0) (a : Nat) (m : Memory) : Memory.cons a v m = (a, v) :: m := if_neg hv

theorem wf_cell (a : Nat) (v : Byte) (rest : Memory) :
    Memory.wf ((a, v) :: rest) = true ↔
      a < 40 ∧ v ≠ 0 ∧ (∀ c ∈ rest.head?, a < c.1) ∧ Memory.wf rest = true := by
  have hu : v ≠ Memory.unlisted ↔ v ≠ 0 := Iff.rfl
  cases rest with
  | nil => simp only [Memory.wf, Bool.and_eq_true, decide_eq_true_eq, hu]; simp
  | cons c tl => simp only [Memory.wf, Bool.and_eq_true, decide_eq_true_eq, hu]; simp [and_assoc]

/-- In a canonical memory no address at or below the first one's predecessor is listed. -/
theorem read_eq_zero_of_lt {m : Memory} (h : Memory.wf m = true) {a : Nat} (ha : ∀ c ∈ m.head?, a < c.1) :
    Memory.read m a = 0 := by
  induction m with
  | nil => rfl
  | cons c tl ih =>
    obtain ⟨b, w⟩ := c
    have hb : a < b := by simpa using ha
    obtain ⟨-, -, hlt, hwf⟩ := (wf_cell b w tl).1 h
    rw [read_cell, if_neg (by omega)]
    exact ih hwf fun c hc => lt_trans hb (hlt c hc)

theorem read_cons {m : Memory} {a : Nat} (h0 : Memory.read m a = 0) (v : Byte) (x : Nat) :
    Memory.read (Memory.cons a v m) x = if x = a then v else Memory.read m x := by
  by_cases hv : v = 0
  · subst hv
    rw [cons_zero]
    split_ifs with hx
    · rw [hx, h0]
    · rfl
  · rw [cons_of_ne hv, read_cell]
    simp only [eq_comm]

/-- A read after a write: the written cell gives the value, every other cell reads as before. -/
theorem read_write {m : Memory} (h : Memory.wf m = true) (a : Nat) (v : Byte) (x : Nat) :
    Memory.read (Memory.write m a v) x = if x = a then v else Memory.read m x := by
  induction m with
  | nil => exact read_cons rfl v x
  | cons c tl ih =>
    obtain ⟨b, w⟩ := c
    obtain ⟨-, -, hlt, hwf⟩ := (wf_cell b w tl).1 h
    by_cases hab : a < b
    · rw [Memory.write, if_pos hab, read_cons (read_eq_zero_of_lt h (by simpa using hab))]
    · by_cases hae : a = b
      · subst hae
        rw [Memory.write, if_neg hab, if_pos rfl, read_cons (read_eq_zero_of_lt hwf hlt), read_cell]
        split_ifs with hx hax
        · rfl
        · exact absurd hax.symm hx
        · rfl
      · rw [Memory.write, if_neg hab, if_neg hae, read_cell, read_cell, ih hwf]
        split_ifs with hbx hx
        · exact absurd (hx ▸ hbx).symm hae
        · rfl
        · rfl
        · rfl

theorem wf_cons {m : Memory} (h : Memory.wf m = true) {a : Nat} (ha : a < 40) (v : Byte)
    (hlt : ∀ c ∈ m.head?, a < c.1) : Memory.wf (Memory.cons a v m) = true := by
  by_cases hv : v = 0
  · rwa [hv, cons_zero]
  · rw [cons_of_ne hv]
    exact (wf_cell a v m).2 ⟨ha, hv, hlt, h⟩

theorem head_cons {m : Memory} {a k : Nat} (v : Byte) (hm : ∀ c ∈ m.head?, k < c.1) (ha : k < a) :
    ∀ c ∈ (Memory.cons a v m).head?, k < c.1 := by
  by_cases hv : v = 0
  · rwa [hv, cons_zero]
  · rw [cons_of_ne hv]
    simpa using ha

/-- After a write the first address stays above whatever bounded both the memory and the written address. -/
theorem head_write {m : Memory} {a : Nat} {v : Byte} {k : Nat} (hm : ∀ c ∈ m.head?, k < c.1) (ha : k < a)
    (hwf : Memory.wf m = true) : ∀ c ∈ (Memory.write m a v).head?, k < c.1 := by
  cases m with
  | nil => exact head_cons v (by simp) ha
  | cons c tl =>
    obtain ⟨b, w⟩ := c
    have hb : k < b := by simpa using hm
    obtain ⟨-, -, hlt, -⟩ := (wf_cell b w tl).1 hwf
    unfold Memory.write
    split_ifs
    · exact head_cons v hm ha
    · exact head_cons v (fun c hc => lt_trans hb (hlt c hc)) ha
    · simpa using hb

/-- A write inside PB keeps the canonical form. -/
theorem wf_write {m : Memory} (h : Memory.wf m = true) {a : Nat} (ha : a < 40) (v : Byte) :
    Memory.wf (Memory.write m a v) = true := by
  induction m with
  | nil => exact wf_cons (m := []) rfl ha v (by simp)
  | cons c tl ih =>
    obtain ⟨b, w⟩ := c
    obtain ⟨hb, hw, hlt, hwf⟩ := (wf_cell b w tl).1 h
    unfold Memory.write
    split_ifs with hab hae
    · exact wf_cons h ha v (by simpa using hab)
    · subst hae
      exact wf_cons hwf ha v hlt
    · exact (wf_cell b w _).2 ⟨hb, hw, head_write hlt (by omega) hwf, ih hwf⟩

/-- A run of writes inside PB keeps the canonical form. -/
theorem wf_store {m : Memory} (h : Memory.wf m = true) (bs : List Byte) {a : Nat} (ha : a + bs.length ≤ 40) :
    Memory.wf (Memory.store m a bs) = true := by
  induction bs generalizing m a with
  | nil => exact h
  | cons b rest ih =>
    simp only [List.length_cons] at ha
    exact ih (wf_write h (by omega) b) (by omega)

/-- A read after a run of writes inside PB: a written cell gives its byte, every other cell reads as before. -/
theorem read_store {m : Memory} (h : Memory.wf m = true) (bs : List Byte) {a : Nat} (ha : a + bs.length ≤ 40)
    (x : Nat) : Memory.read (Memory.store m a bs) x =
      if a ≤ x ∧ x < a + bs.length then bs.getD (x - a) 0 else Memory.read m x := by
  induction bs generalizing m a with
  | nil => simp only [Memory.store, List.length_nil, Nat.add_zero]; rw [if_neg (by omega)]
  | cons b rest ih =>
    simp only [List.length_cons] at ha
    rw [Memory.store, ih (wf_write h (by omega) b) (by omega), read_write h]
    by_cases hx : x = a
    · subst hx
      rw [if_neg (by omega), if_pos rfl, if_pos (by simp)]
      simp
    · simp only [List.length_cons]
      by_cases hin : a + 1 ≤ x ∧ x < a + 1 + rest.length
      · rw [if_pos hin, if_pos (by omega), show x - a = (x - (a + 1)) + 1 by omega]
        simp
      · rw [if_neg hin, if_neg hx, if_neg (by omega)]

@[simp] theorem length_load (m : Memory) (a n : Nat) : (Memory.load m a n).length = n := by
  simp [Memory.load]

theorem getD_load (m : Memory) (a n i : Nat) (hi : i < n) :
    (Memory.load m a n).getD i 0 = Memory.read m (a + i) := by
  simp [Memory.load, hi]

end Sys2Proof.Laws
end

