-- ==== Sys2Proof/Laws/Serializer.lean ====
section
/-! SUPPORT. Laws/Serializer.lean: the lengths of records and of decoded pieces, joined pieces, and framing. -/

namespace Sys2Proof.Laws

open Sys2Proof Sys2Proof.Machine

@[simp] theorem length_addressBytes (addr : BitVec 8) : (addressBytes addr).length = 2 := rfl

/-- A list of `n` parts of `k` items each has `k * n` items. -/
theorem length_flatMap_range {α : Type} (f : Nat → List α) (k n : Nat) (h : ∀ i, (f i).length = k) :
    ((List.range n).flatMap f).length = k * n := by
  simp [List.length_flatMap, h, Nat.mul_comm]

/-- Every template has 40 payload bytes (R136). -/
@[simp] theorem length_payloadBytes (t : Template) (s : State) : (payloadBytes t s).length = 40 := by
  cases t with
  | hdr => simp [payloadBytes, hdrPayload, headerNibbles]
  | row => simp [payloadBytes, rowPayload]
  | trip =>
    have := length_flatMap_range (fun k => codewordBytes (h24enc (tripletAt s.pb k))) 3 13 fun _ => rfl
    simp only [payloadBytes, tripPayload, List.length_cons, this]
  | link => simp [payloadBytes, linkPayload]

/-- A record has 42 bytes (R135). -/
@[simp] theorem length_recordBytes (t : Template) (s : State) : (recordBytes t s).length = 42 := by
  simp [recordBytes]

/-- Item `i` of part `k` of a list of equal parts. -/
theorem getD_flatMap_range {α : Type} (f : Nat → List α) (m n k i : Nat) (d : α) (h : ∀ j, (f j).length = m)
    (hk : k < n) (hi : i < m) : ((List.range n).flatMap f).getD (m * k + i) d = (f k).getD i d := by
  induction n generalizing k f with
  | zero => omega
  | succ n ih =>
    rw [List.range_succ_eq_map, List.flatMap_cons, List.flatMap_map]
    cases k with
    | zero => rw [Nat.mul_zero, Nat.zero_add, List.getD_append _ _ _ _ (by rw [h]; exact hi)]
    | succ k =>
      rw [List.getD_append_right _ _ _ _ (by rw [h, Nat.mul_succ]; omega), h,
        show m * (k + 1) + i - m = m * k + i by rw [Nat.mul_succ]; omega]
      exact ih (fun j => f (j + 1)) k (fun j => h _) (by omega)

/-! ### Pieces -/

@[simp] theorem cleanPiece_bytes (l : List Byte) : (cleanPiece l).bytes = l := rfl
@[simp] theorem cleanPiece_flags (l : List Byte) : (cleanPiece l).flags = 0 := rfl
@[simp] theorem cleanPiece_count (l : List Byte) : (cleanPiece l).count = 0 := rfl
@[simp] theorem append_bytes (p q : Piece) : (p.append q).bytes = p.bytes ++ q.bytes := rfl
@[simp] theorem append_flags (p q : Piece) : (p.append q).flags = p.flags ||| q.flags := rfl
@[simp] theorem append_count (p q : Piece) : (p.append q).count = p.count + q.count := rfl

theorem joinPieces_bytes (l : List Piece) : (joinPieces l).bytes = l.flatMap Piece.bytes := by
  induction l with
  | nil => rfl
  | cons p rest ih => simp [joinPieces, ih]

theorem joinPieces_count (l : List Piece) : (joinPieces l).count = (l.map Piece.count).sum := by
  induction l with
  | nil => rfl
  | cons p rest ih => simp [joinPieces, ih]

/-- When every part raises `f` or nothing, and raises it exactly when it counts one, so does the whole: the flag is
up exactly when the count is not 0. -/
theorem joinPieces_flags (l : List Piece) (f : BitVec 8)
    (h : ∀ p ∈ l, (p.count = 0 ∧ p.flags = 0) ∨ (p.count = 1 ∧ p.flags = f)) :
    (joinPieces l).flags = if (joinPieces l).count = 0 then 0 else f := by
  induction l with
  | nil => rfl
  | cons p rest ih =>
    have hr := ih fun q hq => h q (by simp [hq])
    rcases h p (by simp) with ⟨hc, hf⟩ | ⟨hc, hf⟩
    · simp [joinPieces, hc, hf, hr]
    · by_cases h0 : (joinPieces rest).count = 0 <;> simp [joinPieces, hc, hf, hr, h0]

/-- The bytes of each part stay where they are among equal parts. -/
theorem joinPieces_getD (f : Nat → Piece) (m n k i : Nat) (h : ∀ j, (f j).bytes.length = m) (hk : k < n)
    (hi : i < m) : (joinPieces ((List.range n).map f)).bytes.getD (m * k + i) 0 = (f k).bytes.getD i 0 := by
  rw [joinPieces_bytes, List.flatMap_map]
  exact getD_flatMap_range (fun j => (f j).bytes) m n k i 0 h hk hi

@[simp] theorem length_decodeNibble (b : Byte) : (decodeNibble b).bytes.length = 1 := by
  unfold decodeNibble
  split <;> rfl

@[simp] theorem length_decodeTriplet (pkt : BitVec 5) (c : BitVec 24) :
    (decodeTriplet pkt c).bytes.length = 3 := by
  unfold decodeTriplet
  simp only []
  split
  · split <;> rfl
  · rfl

@[simp] theorem length_decodeLink (raw : List Byte) (j : Nat) : (decodeLink raw j).bytes.length = 6 := by
  unfold decodeLink
  simp only []
  split
  · rfl
  · simp

/-- Every template gives PB its 40 bytes (R151). -/
@[simp] theorem length_decodePayload (t : Template) (pkt : BitVec 5) (raw : List Byte) :
    (decodePayload t pkt raw).bytes.length = 40 := by
  cases t with
  | hdr => simp [decodePayload, decodeHdr]
  | row => simp [decodePayload, decodeRow]
  | trip =>
    have h := length_flatMap_range (fun k => (decodeTriplet pkt (codewordAt raw k)).bytes) 3 13
      fun _ => length_decodeTriplet _ _
    simp only [decodePayload, decodeTrip]
    split
    · rfl
    · simp [joinPieces_bytes, List.flatMap_map, h]
  | link =>
    have h := length_flatMap_range (fun j => (decodeLink raw j).bytes) 6 6 fun _ => length_decodeLink _ _
    simp only [decodePayload, decodeLinks]
    split
    · rfl
    · simp [joinPieces_bytes, List.flatMap_map, h]

/-! ### Framing -/

/-- The framing of a record is undone on input, whatever the three bytes before it are (R148, R160). -/
theorem unframe_wrapped (three record : List Byte) (h : three.length = 3) :
    unframeBytes true (three ++ record.map reverseBits) = record := by
  rw [unframeBytes, if_pos rfl, List.drop_append_of_le_length (by simp [h])]
  simp [h, Function.comp_def]

theorem unframe_raw (record : List Byte) : unframeBytes false record = record := rfl

end Sys2Proof.Laws
end

