-- ==== Sys2Proof/Laws/Deserializer.lean ====
section
/-! SUPPORT. Laws/Deserializer.lean: what each stage of DESER answers, in the words that the statements use: the record
at the head of SIN, its address, and the ways a DESER ends. -/

namespace Sys2Proof.Laws

open Sys2Proof Sys2Proof.Machine

theorem complete_eq (flags : BitVec 8) (rsp : Word) (s : State) : complete flags rsp s = finished flags rsp s := rfl
theorem raiseFault_eq (e : ErrCode) (s : State) : raiseFault e s = faulted e.code s := rfl

theorem wraps_of_raw {s : State} (h : s.mode = 0) : wraps s = false := by simp [wraps, h]
theorem wraps_of_wrapped {s : State} (h : s.mode = 1) : wraps s = true := by simp [wraps, h]

/-- The number of stream bytes of a record in each framing (R135, R148). -/
theorem streamLen_eq (s : State) : streamLen s = if s.mode = 0 then 42 else 45 := by
  rcases BitVec.eq_zero_or_eq_one s.mode with h | h <;> simp [streamLen, wraps, h]

/-- A record at the head of SIN is what DESER looks at, and what follows it is what taking the record leaves. -/
theorem headRecord_of_holds {s : State} {record rest : List Byte} (h : holdsRecord s record rest) :
    headRecord s = some record ∧ s.takeSin (streamLen s) = { s with sin := rest } := by
  obtain ⟨hlen, ⟨hm, hs⟩ | ⟨hm, three, h3, hs⟩⟩ := h
  · have hn : streamLen s = 42 := by rw [streamLen_eq, if_pos hm]
    have hw := wraps_of_raw hm
    refine ⟨?_, ?_⟩
    · rw [headRecord, hn, hw, if_neg (by simp [hs, hlen]), unframe_raw, hs, ← hlen, List.take_left']
      rfl
    · rw [State.takeSin, State.setSin, hn, hs, ← hlen, List.drop_left']
      rfl
  · have hn : streamLen s = 45 := by rw [streamLen_eq, if_neg (by simp [hm])]
    have hw := wraps_of_wrapped hm
    have h45 : (three ++ record.map reverseBits).length = 45 := by simp [h3, hlen]
    refine ⟨?_, ?_⟩
    · rw [headRecord, hn, hw, if_neg (by simp [hs, h3, hlen]; omega), hs, List.take_left' h45, unframe_wrapped _ _ h3]
    · rw [State.takeSin, State.setSin, hn, hs, List.drop_left' h45]

/-- The address of two bytes that are not the sentinel (R140, R151). -/
theorem addrOfNibbles_toNat (a0 a1 : BitVec 4) :
    addrOfNibbles a0 a1 = BitVec.ofNat 8 (32 * (a0.toNat % 8) + (a0.toNat / 8 + 2 * a1.toNat)) ∧
      (addrPkt (addrOfNibbles a0 a1)).toNat = a0.toNat / 8 + 2 * a1.toNat := by
  revert a0 a1
  decide +kernel

theorem lowNibble_toNat {b : Byte} (h : b.toNat < 16) : (lowNibble b).toNat = b.toNat := by
  simp [lowNibble, BitVec.extractLsb'_toNat, Nat.mod_eq_of_lt h]

theorem nibbleOf_lt {record : List Byte} {i : Nat} (h : nibbleOf record i ≠ 0xFF) : (nibbleOf record i).toNat < 16 :=
  (h84d_range _).resolve_left h

/-- A record with a valid address gives ADDR and PKT (R140, R151). -/
theorem decodeAddress_of_valid {record : List Byte} (h : addressValid record) :
    decodeAddress record = some (recordAddr record) ∧ (addrPkt (recordAddr record)).toNat = recordPkt record := by
  have h0 := lowNibble_toNat (nibbleOf_lt h.1)
  have h1 := lowNibble_toNat (nibbleOf_lt h.2)
  have hA := addrOfNibbles_toNat (lowNibble (nibbleOf record 0)) (lowNibble (nibbleOf record 1))
  rw [h0, h1] at hA
  refine ⟨?_, ?_⟩
  · rw [decodeAddress, if_neg (by exact fun h' => h'.elim h.1 h.2)]
    exact congrArg some hA.1
  · rw [recordAddr, recordPkt, ← hA.1]
    exact hA.2

theorem decodeAddress_of_invalid {record : List Byte} (h : ¬ addressValid record) : decodeAddress record = none := by
  refine if_pos (Decidable.byContradiction fun h' => h ?_)
  exact ⟨fun e => h' (.inl e), fun e => h' (.inr e)⟩

/-- The five ways a DESER ends (R151): everything it can do. -/
theorem deser_cases (tsel : BitVec 3) (s : State) :
    (tselLegal tsel = false ∧ execDeser tsel s = .next (raiseFault .eOper s)) ∨
    (tselLegal tsel = true ∧
      ((headRecord s = none ∧ execDeser tsel s = .next (raiseFault .eTrunc s)) ∨
      ∃ raw, headRecord s = some raw ∧
        ((decodeAddress raw = none ∧ execDeser tsel s = .next (dropRecord s)) ∨
        ∃ addr, decodeAddress raw = some addr ∧
          ((resolve tsel (addrPkt addr) (h84d (rawAt raw 2)) = none ∧
            execDeser tsel s = .next (raiseFault .eNotmpl s)) ∨
          ∃ t, resolve tsel (addrPkt addr) (h84d (rawAt raw 2)) = some t ∧
            execDeser tsel s = .next (acceptRecord t addr raw s))))) := by
  unfold execDeser
  by_cases hl : tselLegal tsel = true
  · refine .inr ⟨hl, ?_⟩
    rw [if_pos hl]
    cases hr : headRecord s with
    | none => exact .inl ⟨rfl, rfl⟩
    | some raw =>
      refine .inr ⟨raw, rfl, ?_⟩
      cases ha : decodeAddress raw with
      | none => exact .inl ⟨rfl, by simp only [ha]⟩
      | some addr =>
        refine .inr ⟨addr, rfl, ?_⟩
        cases ht : resolve tsel (addrPkt addr) (h84d (rawAt raw 2)) with
        | none => exact .inl ⟨rfl, by simp only [ha, ht]⟩
        | some t => exact .inr ⟨t, rfl, by simp only [ha, ht]⟩
  · exact .inl ⟨by simpa using hl, if_neg hl⟩

/-- The end of a DESER, in the words of the statements (R151, R161): the largest count is 13, so that the count stands
above the template's number. -/
theorem finishDeser_eq (t : BitVec 3) (flags : BitVec 8) (count : Nat) (s : State) (hc : count ≤ 13) :
    finishDeser t flags count s = deserialized flags count t.toNat s := by
  have h : deserResponse t count = BitVec.ofNat 32 (t.toNat + 256 * count) := by
    revert t count
    decide +kernel
  rw [finishDeser, h]
  rfl

/-- Every part of a record counts at most its items: 8 nibbles, 13 triplets, or 6 links and the tail (R161). -/
theorem count_decodePayload_le (t : Template) (pkt : BitVec 5) (raw : List Byte) :
    (decodePayload t pkt raw).count ≤ 13 := by
  have hsum : ∀ (l : List Piece), (∀ p ∈ l, p.count ≤ 1) → (joinPieces l).count ≤ l.length := fun l h => by
    induction l with
    | nil => simp [joinPieces]
    | cons p rest ih =>
      have h1 := h p (by simp)
      have h2 := ih fun q hq => h q (by simp [hq])
      simp only [joinPieces, append_count, List.length_cons]
      omega
  have hnib : ∀ b, (decodeNibble b).count ≤ 1 := fun b => by unfold decodeNibble; split <;> simp
  have htri : ∀ c, (decodeTriplet pkt c).count ≤ 1 := fun c => by
    unfold decodeTriplet
    simp only []
    split
    · split <;> simp
    · simp
  have hlink : ∀ j, (decodeLink raw j).count ≤ 1 := fun j => by
    unfold decodeLink
    simp only []
    split <;> simp
  cases t with
  | hdr =>
    have := hsum ((List.range 8).map fun j => decodeNibble (rawAt raw (2 + j))) (by simp [hnib])
    simp only [List.length_map, List.length_range] at this
    exact Nat.le_trans this (by omega)
  | row => simp [decodePayload, decodeRow]
  | trip =>
    simp only [decodePayload, decodeTrip]
    split
    · simp [abandonedPayload]
    · have := hsum ((List.range 13).map fun k => decodeTriplet pkt (codewordAt raw k)) (by simp [htri])
      simpa using this
  | link =>
    simp only [decodePayload, decodeLinks]
    split
    · simp [abandonedPayload]
    · have := hsum ((List.range 6).map (decodeLink raw)) (by simp [hlink])
      have h2 := hnib (rawAt raw (Config.linkTailNibble + 2))
      simp only [List.length_map, List.length_range] at this
      simp only [append_count, cleanPiece_count, Nat.zero_add, Nat.add_zero, Config.nLinks]
      omega

end Sys2Proof.Laws
end

