-- ==== Sys2Proof/Laws/Encoding.lean ====
section
/-! SUPPORT. Laws/Encoding.lean: reading a field of a word that is built from fields, and the opcode of an encoded
command. -/

namespace Sys2Proof.Laws

open Sys2Proof

@[simp] theorem getLsbD_fieldAt {n : Nat} (x : BitVec n) (lo j : Nat) :
    (fieldAt x lo).getLsbD j = (decide (j < 32) && !decide (j < lo) && x.getLsbD (j - lo)) := by
  rw [fieldAt, BitVec.getLsbD_shiftLeft, BitVec.getLsbD_setWidth]
  by_cases h : j < 32
  · have : j - lo < 32 := by omega
    simp [h, this]
  · simp [h]

theorem extractLsb'_or {w : Nat} (a b : BitVec w) (lo n : Nat) :
    (a ||| b).extractLsb' lo n = a.extractLsb' lo n ||| b.extractLsb' lo n := by
  apply BitVec.eq_of_getLsbD_eq
  intro j hj
  simp [hj]

/-- A field read back from its own place. -/
theorem extractLsb'_fieldAt_self {n : Nat} (x : BitVec n) (lo k : Nat) (h : lo + n ≤ 32) (hk : k = n) :
    (fieldAt x lo).extractLsb' lo k = x.setWidth k := by
  subst hk
  apply BitVec.eq_of_getLsbD_eq
  intro j hj
  have hlo : ¬ lo + j < lo := by omega
  have hw : lo + j < 32 := by omega
  rw [BitVec.getLsbD_extractLsb', getLsbD_fieldAt, BitVec.getLsbD_setWidth, Nat.add_sub_cancel_left]
  simp only [hj, hw, hlo, decide_true, decide_false, Bool.not_false, Bool.true_and]

/-- A field has no bit outside its place. -/
theorem extractLsb'_fieldAt_other {n : Nat} (x : BitVec n) (lo a k : Nat) (h : a + k ≤ lo ∨ lo + n ≤ a) :
    (fieldAt x lo).extractLsb' a k = 0 := by
  apply BitVec.eq_of_getLsbD_eq
  intro j hj
  rw [BitVec.getLsbD_extractLsb', getLsbD_fieldAt]
  rcases h with h | h
  · have : a + j < lo := by omega
    simp [this]
  · have : x.getLsbD (a + j - lo) = false := BitVec.getLsbD_of_ge x _ (by omega)
    simp [this]

/-- The opcode of an encoded command is its row's opcode (R63). -/
theorem opcodeOf_encode (i : Instr) : opcodeOf (encode i) = i.opcode := by
  cases i <;>
    simp [encode, opcodeOf, Instr.opcode, extractLsb'_or, extractLsb'_fieldAt_self, extractLsb'_fieldAt_other]

end Sys2Proof.Laws
end

