-- ==== Sys2Proof/Laws/State.lean ====
section
/-! SUPPORT. Laws/State.lean: for every write of one item of state, what each item reads as afterwards, so that no
later proof unfolds a record update. -/

namespace Sys2Proof.Laws

open Sys2Proof Sys2Proof.Machine

section
variable (s : State) (v : Memory)
@[simp] theorem setPb_pb : (s.setPb v).pb = v := rfl
@[simp] theorem setPb_fd : (s.setPb v).fd = s.fd := rfl
@[simp] theorem setPb_acc : (s.setPb v).acc = s.acc := rfl
@[simp] theorem setPb_mode : (s.setPb v).mode = s.mode := rfl
@[simp] theorem setPb_stat : (s.setPb v).stat = s.stat := rfl
@[simp] theorem setPb_err : (s.setPb v).err = s.err := rfl
@[simp] theorem setPb_warn : (s.setPb v).warn = s.warn := rfl
@[simp] theorem setPb_wcnt : (s.setPb v).wcnt = s.wcnt := rfl
@[simp] theorem setPb_addr : (s.setPb v).addr = s.addr := rfl
@[simp] theorem setPb_page : (s.setPb v).page = s.page := rfl
@[simp] theorem setPb_sub : (s.setPb v).sub = s.sub := rfl
@[simp] theorem setPb_ctl : (s.setPb v).ctl = s.ctl := rfl
@[simp] theorem setPb_sin : (s.setPb v).sin = s.sin := rfl
@[simp] theorem setPb_sout : (s.setPb v).sout = s.sout := rfl
@[simp] theorem setPb_port : (s.setPb v).port = s.port := rfl
@[simp] theorem setPb_responses : (s.setPb v).responses = s.responses := rfl
end

section
variable (s : State) (v : Vector FdEntry Config.fdLen)
@[simp] theorem setFd_pb : (s.setFd v).pb = s.pb := rfl
@[simp] theorem setFd_fd : (s.setFd v).fd = v := rfl
@[simp] theorem setFd_acc : (s.setFd v).acc = s.acc := rfl
@[simp] theorem setFd_mode : (s.setFd v).mode = s.mode := rfl
@[simp] theorem setFd_stat : (s.setFd v).stat = s.stat := rfl
@[simp] theorem setFd_err : (s.setFd v).err = s.err := rfl
@[simp] theorem setFd_warn : (s.setFd v).warn = s.warn := rfl
@[simp] theorem setFd_wcnt : (s.setFd v).wcnt = s.wcnt := rfl
@[simp] theorem setFd_addr : (s.setFd v).addr = s.addr := rfl
@[simp] theorem setFd_page : (s.setFd v).page = s.page := rfl
@[simp] theorem setFd_sub : (s.setFd v).sub = s.sub := rfl
@[simp] theorem setFd_ctl : (s.setFd v).ctl = s.ctl := rfl
@[simp] theorem setFd_sin : (s.setFd v).sin = s.sin := rfl
@[simp] theorem setFd_sout : (s.setFd v).sout = s.sout := rfl
@[simp] theorem setFd_port : (s.setFd v).port = s.port := rfl
@[simp] theorem setFd_responses : (s.setFd v).responses = s.responses := rfl
end

section
variable (s : State) (v : BitVec Config.accW)
@[simp] theorem setAcc_pb : (s.setAcc v).pb = s.pb := rfl
@[simp] theorem setAcc_fd : (s.setAcc v).fd = s.fd := rfl
@[simp] theorem setAcc_acc : (s.setAcc v).acc = v := rfl
@[simp] theorem setAcc_mode : (s.setAcc v).mode = s.mode := rfl
@[simp] theorem setAcc_stat : (s.setAcc v).stat = s.stat := rfl
@[simp] theorem setAcc_err : (s.setAcc v).err = s.err := rfl
@[simp] theorem setAcc_warn : (s.setAcc v).warn = s.warn := rfl
@[simp] theorem setAcc_wcnt : (s.setAcc v).wcnt = s.wcnt := rfl
@[simp] theorem setAcc_addr : (s.setAcc v).addr = s.addr := rfl
@[simp] theorem setAcc_page : (s.setAcc v).page = s.page := rfl
@[simp] theorem setAcc_sub : (s.setAcc v).sub = s.sub := rfl
@[simp] theorem setAcc_ctl : (s.setAcc v).ctl = s.ctl := rfl
@[simp] theorem setAcc_sin : (s.setAcc v).sin = s.sin := rfl
@[simp] theorem setAcc_sout : (s.setAcc v).sout = s.sout := rfl
@[simp] theorem setAcc_port : (s.setAcc v).port = s.port := rfl
@[simp] theorem setAcc_responses : (s.setAcc v).responses = s.responses := rfl
end

section
variable (s : State) (v : BitVec 1)
@[simp] theorem setMode_pb : (s.setMode v).pb = s.pb := rfl
@[simp] theorem setMode_fd : (s.setMode v).fd = s.fd := rfl
@[simp] theorem setMode_acc : (s.setMode v).acc = s.acc := rfl
@[simp] theorem setMode_mode : (s.setMode v).mode = v := rfl
@[simp] theorem setMode_stat : (s.setMode v).stat = s.stat := rfl
@[simp] theorem setMode_err : (s.setMode v).err = s.err := rfl
@[simp] theorem setMode_warn : (s.setMode v).warn = s.warn := rfl
@[simp] theorem setMode_wcnt : (s.setMode v).wcnt = s.wcnt := rfl
@[simp] theorem setMode_addr : (s.setMode v).addr = s.addr := rfl
@[simp] theorem setMode_page : (s.setMode v).page = s.page := rfl
@[simp] theorem setMode_sub : (s.setMode v).sub = s.sub := rfl
@[simp] theorem setMode_ctl : (s.setMode v).ctl = s.ctl := rfl
@[simp] theorem setMode_sin : (s.setMode v).sin = s.sin := rfl
@[simp] theorem setMode_sout : (s.setMode v).sout = s.sout := rfl
@[simp] theorem setMode_port : (s.setMode v).port = s.port := rfl
@[simp] theorem setMode_responses : (s.setMode v).responses = s.responses := rfl
end

section
variable (s : State) (v : BitVec 8)
@[simp] theorem setStat_pb : (s.setStat v).pb = s.pb := rfl
@[simp] theorem setStat_fd : (s.setStat v).fd = s.fd := rfl
@[simp] theorem setStat_acc : (s.setStat v).acc = s.acc := rfl
@[simp] theorem setStat_mode : (s.setStat v).mode = s.mode := rfl
@[simp] theorem setStat_stat : (s.setStat v).stat = v := rfl
@[simp] theorem setStat_err : (s.setStat v).err = s.err := rfl
@[simp] theorem setStat_warn : (s.setStat v).warn = s.warn := rfl
@[simp] theorem setStat_wcnt : (s.setStat v).wcnt = s.wcnt := rfl
@[simp] theorem setStat_addr : (s.setStat v).addr = s.addr := rfl
@[simp] theorem setStat_page : (s.setStat v).page = s.page := rfl
@[simp] theorem setStat_sub : (s.setStat v).sub = s.sub := rfl
@[simp] theorem setStat_ctl : (s.setStat v).ctl = s.ctl := rfl
@[simp] theorem setStat_sin : (s.setStat v).sin = s.sin := rfl
@[simp] theorem setStat_sout : (s.setStat v).sout = s.sout := rfl
@[simp] theorem setStat_port : (s.setStat v).port = s.port := rfl
@[simp] theorem setStat_responses : (s.setStat v).responses = s.responses := rfl
end

section
variable (s : State) (v : BitVec 3)
@[simp] theorem setErr_pb : (s.setErr v).pb = s.pb := rfl
@[simp] theorem setErr_fd : (s.setErr v).fd = s.fd := rfl
@[simp] theorem setErr_acc : (s.setErr v).acc = s.acc := rfl
@[simp] theorem setErr_mode : (s.setErr v).mode = s.mode := rfl
@[simp] theorem setErr_stat : (s.setErr v).stat = s.stat := rfl
@[simp] theorem setErr_err : (s.setErr v).err = v := rfl
@[simp] theorem setErr_warn : (s.setErr v).warn = s.warn := rfl
@[simp] theorem setErr_wcnt : (s.setErr v).wcnt = s.wcnt := rfl
@[simp] theorem setErr_addr : (s.setErr v).addr = s.addr := rfl
@[simp] theorem setErr_page : (s.setErr v).page = s.page := rfl
@[simp] theorem setErr_sub : (s.setErr v).sub = s.sub := rfl
@[simp] theorem setErr_ctl : (s.setErr v).ctl = s.ctl := rfl
@[simp] theorem setErr_sin : (s.setErr v).sin = s.sin := rfl
@[simp] theorem setErr_sout : (s.setErr v).sout = s.sout := rfl
@[simp] theorem setErr_port : (s.setErr v).port = s.port := rfl
@[simp] theorem setErr_responses : (s.setErr v).responses = s.responses := rfl
end

section
variable (s : State) (v : BitVec 8)
@[simp] theorem setWarn_pb : (s.setWarn v).pb = s.pb := rfl
@[simp] theorem setWarn_fd : (s.setWarn v).fd = s.fd := rfl
@[simp] theorem setWarn_acc : (s.setWarn v).acc = s.acc := rfl
@[simp] theorem setWarn_mode : (s.setWarn v).mode = s.mode := rfl
@[simp] theorem setWarn_stat : (s.setWarn v).stat = s.stat := rfl
@[simp] theorem setWarn_err : (s.setWarn v).err = s.err := rfl
@[simp] theorem setWarn_warn : (s.setWarn v).warn = v := rfl
@[simp] theorem setWarn_wcnt : (s.setWarn v).wcnt = s.wcnt := rfl
@[simp] theorem setWarn_addr : (s.setWarn v).addr = s.addr := rfl
@[simp] theorem setWarn_page : (s.setWarn v).page = s.page := rfl
@[simp] theorem setWarn_sub : (s.setWarn v).sub = s.sub := rfl
@[simp] theorem setWarn_ctl : (s.setWarn v).ctl = s.ctl := rfl
@[simp] theorem setWarn_sin : (s.setWarn v).sin = s.sin := rfl
@[simp] theorem setWarn_sout : (s.setWarn v).sout = s.sout := rfl
@[simp] theorem setWarn_port : (s.setWarn v).port = s.port := rfl
@[simp] theorem setWarn_responses : (s.setWarn v).responses = s.responses := rfl
end

section
variable (s : State) (v : BitVec Config.wcntW)
@[simp] theorem setWcnt_pb : (s.setWcnt v).pb = s.pb := rfl
@[simp] theorem setWcnt_fd : (s.setWcnt v).fd = s.fd := rfl
@[simp] theorem setWcnt_acc : (s.setWcnt v).acc = s.acc := rfl
@[simp] theorem setWcnt_mode : (s.setWcnt v).mode = s.mode := rfl
@[simp] theorem setWcnt_stat : (s.setWcnt v).stat = s.stat := rfl
@[simp] theorem setWcnt_err : (s.setWcnt v).err = s.err := rfl
@[simp] theorem setWcnt_warn : (s.setWcnt v).warn = s.warn := rfl
@[simp] theorem setWcnt_wcnt : (s.setWcnt v).wcnt = v := rfl
@[simp] theorem setWcnt_addr : (s.setWcnt v).addr = s.addr := rfl
@[simp] theorem setWcnt_page : (s.setWcnt v).page = s.page := rfl
@[simp] theorem setWcnt_sub : (s.setWcnt v).sub = s.sub := rfl
@[simp] theorem setWcnt_ctl : (s.setWcnt v).ctl = s.ctl := rfl
@[simp] theorem setWcnt_sin : (s.setWcnt v).sin = s.sin := rfl
@[simp] theorem setWcnt_sout : (s.setWcnt v).sout = s.sout := rfl
@[simp] theorem setWcnt_port : (s.setWcnt v).port = s.port := rfl
@[simp] theorem setWcnt_responses : (s.setWcnt v).responses = s.responses := rfl
end

section
variable (s : State) (v : BitVec 8)
@[simp] theorem setAddr_pb : (s.setAddr v).pb = s.pb := rfl
@[simp] theorem setAddr_fd : (s.setAddr v).fd = s.fd := rfl
@[simp] theorem setAddr_acc : (s.setAddr v).acc = s.acc := rfl
@[simp] theorem setAddr_mode : (s.setAddr v).mode = s.mode := rfl
@[simp] theorem setAddr_stat : (s.setAddr v).stat = s.stat := rfl
@[simp] theorem setAddr_err : (s.setAddr v).err = s.err := rfl
@[simp] theorem setAddr_warn : (s.setAddr v).warn = s.warn := rfl
@[simp] theorem setAddr_wcnt : (s.setAddr v).wcnt = s.wcnt := rfl
@[simp] theorem setAddr_addr : (s.setAddr v).addr = v := rfl
@[simp] theorem setAddr_page : (s.setAddr v).page = s.page := rfl
@[simp] theorem setAddr_sub : (s.setAddr v).sub = s.sub := rfl
@[simp] theorem setAddr_ctl : (s.setAddr v).ctl = s.ctl := rfl
@[simp] theorem setAddr_sin : (s.setAddr v).sin = s.sin := rfl
@[simp] theorem setAddr_sout : (s.setAddr v).sout = s.sout := rfl
@[simp] theorem setAddr_port : (s.setAddr v).port = s.port := rfl
@[simp] theorem setAddr_responses : (s.setAddr v).responses = s.responses := rfl
end

section
variable (s : State) (v : BitVec 8)
@[simp] theorem setPage_pb : (s.setPage v).pb = s.pb := rfl
@[simp] theorem setPage_fd : (s.setPage v).fd = s.fd := rfl
@[simp] theorem setPage_acc : (s.setPage v).acc = s.acc := rfl
@[simp] theorem setPage_mode : (s.setPage v).mode = s.mode := rfl
@[simp] theorem setPage_stat : (s.setPage v).stat = s.stat := rfl
@[simp] theorem setPage_err : (s.setPage v).err = s.err := rfl
@[simp] theorem setPage_warn : (s.setPage v).warn = s.warn := rfl
@[simp] theorem setPage_wcnt : (s.setPage v).wcnt = s.wcnt := rfl
@[simp] theorem setPage_addr : (s.setPage v).addr = s.addr := rfl
@[simp] theorem setPage_page : (s.setPage v).page = v := rfl
@[simp] theorem setPage_sub : (s.setPage v).sub = s.sub := rfl
@[simp] theorem setPage_ctl : (s.setPage v).ctl = s.ctl := rfl
@[simp] theorem setPage_sin : (s.setPage v).sin = s.sin := rfl
@[simp] theorem setPage_sout : (s.setPage v).sout = s.sout := rfl
@[simp] theorem setPage_port : (s.setPage v).port = s.port := rfl
@[simp] theorem setPage_responses : (s.setPage v).responses = s.responses := rfl
end

section
variable (s : State) (v : BitVec 16)
@[simp] theorem setSub_pb : (s.setSub v).pb = s.pb := rfl
@[simp] theorem setSub_fd : (s.setSub v).fd = s.fd := rfl
@[simp] theorem setSub_acc : (s.setSub v).acc = s.acc := rfl
@[simp] theorem setSub_mode : (s.setSub v).mode = s.mode := rfl
@[simp] theorem setSub_stat : (s.setSub v).stat = s.stat := rfl
@[simp] theorem setSub_err : (s.setSub v).err = s.err := rfl
@[simp] theorem setSub_warn : (s.setSub v).warn = s.warn := rfl
@[simp] theorem setSub_wcnt : (s.setSub v).wcnt = s.wcnt := rfl
@[simp] theorem setSub_addr : (s.setSub v).addr = s.addr := rfl
@[simp] theorem setSub_page : (s.setSub v).page = s.page := rfl
@[simp] theorem setSub_sub : (s.setSub v).sub = v := rfl
@[simp] theorem setSub_ctl : (s.setSub v).ctl = s.ctl := rfl
@[simp] theorem setSub_sin : (s.setSub v).sin = s.sin := rfl
@[simp] theorem setSub_sout : (s.setSub v).sout = s.sout := rfl
@[simp] theorem setSub_port : (s.setSub v).port = s.port := rfl
@[simp] theorem setSub_responses : (s.setSub v).responses = s.responses := rfl
end

section
variable (s : State) (v : BitVec 11)
@[simp] theorem setCtl_pb : (s.setCtl v).pb = s.pb := rfl
@[simp] theorem setCtl_fd : (s.setCtl v).fd = s.fd := rfl
@[simp] theorem setCtl_acc : (s.setCtl v).acc = s.acc := rfl
@[simp] theorem setCtl_mode : (s.setCtl v).mode = s.mode := rfl
@[simp] theorem setCtl_stat : (s.setCtl v).stat = s.stat := rfl
@[simp] theorem setCtl_err : (s.setCtl v).err = s.err := rfl
@[simp] theorem setCtl_warn : (s.setCtl v).warn = s.warn := rfl
@[simp] theorem setCtl_wcnt : (s.setCtl v).wcnt = s.wcnt := rfl
@[simp] theorem setCtl_addr : (s.setCtl v).addr = s.addr := rfl
@[simp] theorem setCtl_page : (s.setCtl v).page = s.page := rfl
@[simp] theorem setCtl_sub : (s.setCtl v).sub = s.sub := rfl
@[simp] theorem setCtl_ctl : (s.setCtl v).ctl = v := rfl
@[simp] theorem setCtl_sin : (s.setCtl v).sin = s.sin := rfl
@[simp] theorem setCtl_sout : (s.setCtl v).sout = s.sout := rfl
@[simp] theorem setCtl_port : (s.setCtl v).port = s.port := rfl
@[simp] theorem setCtl_responses : (s.setCtl v).responses = s.responses := rfl
end

section
variable (s : State) (v : List Byte)
@[simp] theorem setSin_pb : (s.setSin v).pb = s.pb := rfl
@[simp] theorem setSin_fd : (s.setSin v).fd = s.fd := rfl
@[simp] theorem setSin_acc : (s.setSin v).acc = s.acc := rfl
@[simp] theorem setSin_mode : (s.setSin v).mode = s.mode := rfl
@[simp] theorem setSin_stat : (s.setSin v).stat = s.stat := rfl
@[simp] theorem setSin_err : (s.setSin v).err = s.err := rfl
@[simp] theorem setSin_warn : (s.setSin v).warn = s.warn := rfl
@[simp] theorem setSin_wcnt : (s.setSin v).wcnt = s.wcnt := rfl
@[simp] theorem setSin_addr : (s.setSin v).addr = s.addr := rfl
@[simp] theorem setSin_page : (s.setSin v).page = s.page := rfl
@[simp] theorem setSin_sub : (s.setSin v).sub = s.sub := rfl
@[simp] theorem setSin_ctl : (s.setSin v).ctl = s.ctl := rfl
@[simp] theorem setSin_sin : (s.setSin v).sin = v := rfl
@[simp] theorem setSin_sout : (s.setSin v).sout = s.sout := rfl
@[simp] theorem setSin_port : (s.setSin v).port = s.port := rfl
@[simp] theorem setSin_responses : (s.setSin v).responses = s.responses := rfl
end

section
variable (s : State) (v : List Byte)
@[simp] theorem setSout_pb : (s.setSout v).pb = s.pb := rfl
@[simp] theorem setSout_fd : (s.setSout v).fd = s.fd := rfl
@[simp] theorem setSout_acc : (s.setSout v).acc = s.acc := rfl
@[simp] theorem setSout_mode : (s.setSout v).mode = s.mode := rfl
@[simp] theorem setSout_stat : (s.setSout v).stat = s.stat := rfl
@[simp] theorem setSout_err : (s.setSout v).err = s.err := rfl
@[simp] theorem setSout_warn : (s.setSout v).warn = s.warn := rfl
@[simp] theorem setSout_wcnt : (s.setSout v).wcnt = s.wcnt := rfl
@[simp] theorem setSout_addr : (s.setSout v).addr = s.addr := rfl
@[simp] theorem setSout_page : (s.setSout v).page = s.page := rfl
@[simp] theorem setSout_sub : (s.setSout v).sub = s.sub := rfl
@[simp] theorem setSout_ctl : (s.setSout v).ctl = s.ctl := rfl
@[simp] theorem setSout_sin : (s.setSout v).sin = s.sin := rfl
@[simp] theorem setSout_sout : (s.setSout v).sout = v := rfl
@[simp] theorem setSout_port : (s.setSout v).port = s.port := rfl
@[simp] theorem setSout_responses : (s.setSout v).responses = s.responses := rfl
end

section
variable (s : State) (v : List HostEvent)
@[simp] theorem setPort_pb : (s.setPort v).pb = s.pb := rfl
@[simp] theorem setPort_fd : (s.setPort v).fd = s.fd := rfl
@[simp] theorem setPort_acc : (s.setPort v).acc = s.acc := rfl
@[simp] theorem setPort_mode : (s.setPort v).mode = s.mode := rfl
@[simp] theorem setPort_stat : (s.setPort v).stat = s.stat := rfl
@[simp] theorem setPort_err : (s.setPort v).err = s.err := rfl
@[simp] theorem setPort_warn : (s.setPort v).warn = s.warn := rfl
@[simp] theorem setPort_wcnt : (s.setPort v).wcnt = s.wcnt := rfl
@[simp] theorem setPort_addr : (s.setPort v).addr = s.addr := rfl
@[simp] theorem setPort_page : (s.setPort v).page = s.page := rfl
@[simp] theorem setPort_sub : (s.setPort v).sub = s.sub := rfl
@[simp] theorem setPort_ctl : (s.setPort v).ctl = s.ctl := rfl
@[simp] theorem setPort_sin : (s.setPort v).sin = s.sin := rfl
@[simp] theorem setPort_sout : (s.setPort v).sout = s.sout := rfl
@[simp] theorem setPort_port : (s.setPort v).port = v := rfl
@[simp] theorem setPort_responses : (s.setPort v).responses = s.responses := rfl
end

section
variable (s : State) (v : Word)
@[simp] theorem respond_pb : (s.respond v).pb = s.pb := rfl
@[simp] theorem respond_fd : (s.respond v).fd = s.fd := rfl
@[simp] theorem respond_acc : (s.respond v).acc = s.acc := rfl
@[simp] theorem respond_mode : (s.respond v).mode = s.mode := rfl
@[simp] theorem respond_stat : (s.respond v).stat = s.stat := rfl
@[simp] theorem respond_err : (s.respond v).err = s.err := rfl
@[simp] theorem respond_warn : (s.respond v).warn = s.warn := rfl
@[simp] theorem respond_wcnt : (s.respond v).wcnt = s.wcnt := rfl
@[simp] theorem respond_addr : (s.respond v).addr = s.addr := rfl
@[simp] theorem respond_page : (s.respond v).page = s.page := rfl
@[simp] theorem respond_sub : (s.respond v).sub = s.sub := rfl
@[simp] theorem respond_ctl : (s.respond v).ctl = s.ctl := rfl
@[simp] theorem respond_sin : (s.respond v).sin = s.sin := rfl
@[simp] theorem respond_sout : (s.respond v).sout = s.sout := rfl
@[simp] theorem respond_port : (s.respond v).port = s.port := rfl
@[simp] theorem respond_responses : (s.respond v).responses = s.responses ++ [v] := rfl
end

/-! What the two ends of a command leave (`complete`, `raiseFault`): all they do is said here. -/

section
variable (flags : BitVec 8) (rsp : Word) (s : State)
@[simp] theorem complete_pb : (complete flags rsp s).pb = s.pb := rfl
@[simp] theorem complete_fd : (complete flags rsp s).fd = s.fd := rfl
@[simp] theorem complete_acc : (complete flags rsp s).acc = s.acc := rfl
@[simp] theorem complete_mode : (complete flags rsp s).mode = s.mode := rfl
@[simp] theorem complete_stat : (complete flags rsp s).stat = flags := rfl
@[simp] theorem complete_err : (complete flags rsp s).err = 0 := rfl
@[simp] theorem complete_warn : (complete flags rsp s).warn = s.warn := rfl
@[simp] theorem complete_wcnt : (complete flags rsp s).wcnt = s.wcnt := rfl
@[simp] theorem complete_addr : (complete flags rsp s).addr = s.addr := rfl
@[simp] theorem complete_page : (complete flags rsp s).page = s.page := rfl
@[simp] theorem complete_sub : (complete flags rsp s).sub = s.sub := rfl
@[simp] theorem complete_ctl : (complete flags rsp s).ctl = s.ctl := rfl
@[simp] theorem complete_sin : (complete flags rsp s).sin = s.sin := rfl
@[simp] theorem complete_sout : (complete flags rsp s).sout = s.sout := rfl
@[simp] theorem complete_port : (complete flags rsp s).port = s.port := rfl
@[simp] theorem complete_responses : (complete flags rsp s).responses = s.responses ++ [rsp] := rfl
end

section
variable (e : ErrCode) (s : State)
@[simp] theorem raiseFault_pb : (raiseFault e s).pb = s.pb := rfl
@[simp] theorem raiseFault_fd : (raiseFault e s).fd = s.fd := rfl
@[simp] theorem raiseFault_acc : (raiseFault e s).acc = s.acc := rfl
@[simp] theorem raiseFault_mode : (raiseFault e s).mode = s.mode := rfl
@[simp] theorem raiseFault_stat : (raiseFault e s).stat = 0 := rfl
@[simp] theorem raiseFault_err : (raiseFault e s).err = e.code := rfl
@[simp] theorem raiseFault_warn : (raiseFault e s).warn = s.warn := rfl
@[simp] theorem raiseFault_wcnt : (raiseFault e s).wcnt = s.wcnt := rfl
@[simp] theorem raiseFault_addr : (raiseFault e s).addr = s.addr := rfl
@[simp] theorem raiseFault_page : (raiseFault e s).page = s.page := rfl
@[simp] theorem raiseFault_sub : (raiseFault e s).sub = s.sub := rfl
@[simp] theorem raiseFault_ctl : (raiseFault e s).ctl = s.ctl := rfl
@[simp] theorem raiseFault_sin : (raiseFault e s).sin = s.sin := rfl
@[simp] theorem raiseFault_sout : (raiseFault e s).sout = s.sout := rfl
@[simp] theorem raiseFault_port : (raiseFault e s).port = s.port := rfl
@[simp] theorem raiseFault_responses : (raiseFault e s).responses = s.responses ++ [0] := rfl
end

section
variable (s : State) (n : Nat)
@[simp] theorem takeSin_pb : (s.takeSin n).pb = s.pb := rfl
@[simp] theorem takeSin_fd : (s.takeSin n).fd = s.fd := rfl
@[simp] theorem takeSin_acc : (s.takeSin n).acc = s.acc := rfl
@[simp] theorem takeSin_mode : (s.takeSin n).mode = s.mode := rfl
@[simp] theorem takeSin_stat : (s.takeSin n).stat = s.stat := rfl
@[simp] theorem takeSin_err : (s.takeSin n).err = s.err := rfl
@[simp] theorem takeSin_warn : (s.takeSin n).warn = s.warn := rfl
@[simp] theorem takeSin_wcnt : (s.takeSin n).wcnt = s.wcnt := rfl
@[simp] theorem takeSin_addr : (s.takeSin n).addr = s.addr := rfl
@[simp] theorem takeSin_page : (s.takeSin n).page = s.page := rfl
@[simp] theorem takeSin_sub : (s.takeSin n).sub = s.sub := rfl
@[simp] theorem takeSin_ctl : (s.takeSin n).ctl = s.ctl := rfl
@[simp] theorem takeSin_sin : (s.takeSin n).sin = s.sin.drop n := rfl
@[simp] theorem takeSin_sout : (s.takeSin n).sout = s.sout := rfl
@[simp] theorem takeSin_port : (s.takeSin n).port = s.port := rfl
@[simp] theorem takeSin_responses : (s.takeSin n).responses = s.responses := rfl
end

section
variable (s : State) (b : Byte)
@[simp] theorem appendSin_pb : (s.appendSin b).pb = s.pb := rfl
@[simp] theorem appendSin_fd : (s.appendSin b).fd = s.fd := rfl
@[simp] theorem appendSin_acc : (s.appendSin b).acc = s.acc := rfl
@[simp] theorem appendSin_mode : (s.appendSin b).mode = s.mode := rfl
@[simp] theorem appendSin_stat : (s.appendSin b).stat = s.stat := rfl
@[simp] theorem appendSin_err : (s.appendSin b).err = s.err := rfl
@[simp] theorem appendSin_warn : (s.appendSin b).warn = s.warn := rfl
@[simp] theorem appendSin_wcnt : (s.appendSin b).wcnt = s.wcnt := rfl
@[simp] theorem appendSin_addr : (s.appendSin b).addr = s.addr := rfl
@[simp] theorem appendSin_page : (s.appendSin b).page = s.page := rfl
@[simp] theorem appendSin_sub : (s.appendSin b).sub = s.sub := rfl
@[simp] theorem appendSin_ctl : (s.appendSin b).ctl = s.ctl := rfl
@[simp] theorem appendSin_sin : (s.appendSin b).sin = s.sin ++ [b] := rfl
@[simp] theorem appendSin_sout : (s.appendSin b).sout = s.sout := rfl
@[simp] theorem appendSin_port : (s.appendSin b).port = s.port := rfl
@[simp] theorem appendSin_responses : (s.appendSin b).responses = s.responses := rfl
end

section
variable (s : State) (bytes : List Byte)
@[simp] theorem emit_pb : (s.emit bytes).pb = s.pb := rfl
@[simp] theorem emit_fd : (s.emit bytes).fd = s.fd := rfl
@[simp] theorem emit_acc : (s.emit bytes).acc = s.acc := rfl
@[simp] theorem emit_mode : (s.emit bytes).mode = s.mode := rfl
@[simp] theorem emit_stat : (s.emit bytes).stat = s.stat := rfl
@[simp] theorem emit_err : (s.emit bytes).err = s.err := rfl
@[simp] theorem emit_warn : (s.emit bytes).warn = s.warn := rfl
@[simp] theorem emit_wcnt : (s.emit bytes).wcnt = s.wcnt := rfl
@[simp] theorem emit_addr : (s.emit bytes).addr = s.addr := rfl
@[simp] theorem emit_page : (s.emit bytes).page = s.page := rfl
@[simp] theorem emit_sub : (s.emit bytes).sub = s.sub := rfl
@[simp] theorem emit_ctl : (s.emit bytes).ctl = s.ctl := rfl
@[simp] theorem emit_sin : (s.emit bytes).sin = s.sin := rfl
@[simp] theorem emit_sout : (s.emit bytes).sout = s.sout ++ bytes := rfl
@[simp] theorem emit_port : (s.emit bytes).port = s.port := rfl
@[simp] theorem emit_responses : (s.emit bytes).responses = s.responses := rfl
end

section
variable (s : State) (i : BitVec 6) (e : FdEntry)
@[simp] theorem writeFd_pb : (s.writeFd i e).pb = s.pb := rfl
@[simp] theorem writeFd_fd : (s.writeFd i e).fd = s.fd.set i.toNat e i.isLt := rfl
@[simp] theorem writeFd_acc : (s.writeFd i e).acc = s.acc := rfl
@[simp] theorem writeFd_mode : (s.writeFd i e).mode = s.mode := rfl
@[simp] theorem writeFd_stat : (s.writeFd i e).stat = s.stat := rfl
@[simp] theorem writeFd_err : (s.writeFd i e).err = s.err := rfl
@[simp] theorem writeFd_warn : (s.writeFd i e).warn = s.warn := rfl
@[simp] theorem writeFd_wcnt : (s.writeFd i e).wcnt = s.wcnt := rfl
@[simp] theorem writeFd_addr : (s.writeFd i e).addr = s.addr := rfl
@[simp] theorem writeFd_page : (s.writeFd i e).page = s.page := rfl
@[simp] theorem writeFd_sub : (s.writeFd i e).sub = s.sub := rfl
@[simp] theorem writeFd_ctl : (s.writeFd i e).ctl = s.ctl := rfl
@[simp] theorem writeFd_sin : (s.writeFd i e).sin = s.sin := rfl
@[simp] theorem writeFd_sout : (s.writeFd i e).sout = s.sout := rfl
@[simp] theorem writeFd_port : (s.writeFd i e).port = s.port := rfl
@[simp] theorem writeFd_responses : (s.writeFd i e).responses = s.responses := rfl
end

section
variable (s : State)
@[simp] theorem clearFd_pb : s.clearFd.pb = s.pb := rfl
@[simp] theorem clearFd_fd : s.clearFd.fd = Vector.replicate Config.fdLen FdEntry.empty := rfl
@[simp] theorem clearFd_acc : s.clearFd.acc = s.acc := rfl
@[simp] theorem clearFd_mode : s.clearFd.mode = s.mode := rfl
@[simp] theorem clearFd_stat : s.clearFd.stat = s.stat := rfl
@[simp] theorem clearFd_err : s.clearFd.err = s.err := rfl
@[simp] theorem clearFd_warn : s.clearFd.warn = s.warn := rfl
@[simp] theorem clearFd_wcnt : s.clearFd.wcnt = s.wcnt := rfl
@[simp] theorem clearFd_addr : s.clearFd.addr = s.addr := rfl
@[simp] theorem clearFd_page : s.clearFd.page = s.page := rfl
@[simp] theorem clearFd_sub : s.clearFd.sub = s.sub := rfl
@[simp] theorem clearFd_ctl : s.clearFd.ctl = s.ctl := rfl
@[simp] theorem clearFd_sin : s.clearFd.sin = s.sin := rfl
@[simp] theorem clearFd_sout : s.clearFd.sout = s.sout := rfl
@[simp] theorem clearFd_port : s.clearFd.port = s.port := rfl
@[simp] theorem clearFd_responses : s.clearFd.responses = s.responses := rfl
end

end Sys2Proof.Laws
end

