-- ==== Sys2Proof/Laws/Exec.lean ====
section
/-! SUPPORT. Laws/Exec.lean: the ways a command can end: a fault, a successful REGRD, or a completion. -/

namespace Sys2Proof.Laws

open Sys2Proof Sys2Proof.Machine

/-- The command completed: the end of R103 on a state that differs from `s` in what the command writes, its port and
its responses not among them. -/
def completes (r : Result) (s : State) : Prop :=
  ∃ flags rsp s', r = .next (complete flags rsp s') ∧ s'.port = s.port ∧ s'.responses = s.responses

theorem store_port (n : RegName) (v : BitVec 16) (s : State) :
    (writeReg n v s).port = s.port ∧ (writeReg n v s).responses = s.responses := by
  cases n <;> exact ⟨rfl, rfl⟩

theorem storeHeader_host (t : Template) (raw : List Byte) (s : State) :
    (storeHeader t raw s).port = s.port ∧ (storeHeader t raw s).responses = s.responses := by
  cases t <;> exact ⟨rfl, rfl⟩

/-- The three ways a command ends. -/
theorem exec_cases (i : Instr) (s : State) :
    (∃ e, exec i s = .next (raiseFault e s)) ∨
    (∃ r n, i = .regrd r ∧ regOfNumber r = some n ∧ exec i s = .next (s.respond (readReg n s))) ∨
    completes (exec i s) s := by
  have done : ∀ flags rsp s', s'.port = s.port → s'.responses = s.responses →
      completes (.next (complete flags rsp s')) s := fun flags rsp s' h h' => ⟨flags, rsp, s', rfl, h, h'⟩
  cases i with
  | nop =>
    simp only [exec, execNop]
    exact .inr (.inr (done _ _ _ rfl rfl))
  | regrd r =>
    simp only [exec, execRegrd]
    cases h : regOfNumber r with
    | none => exact .inl ⟨_, rfl⟩
    | some n => exact .inr (.inl ⟨r, n, rfl, h, rfl⟩)
  | regwr r val =>
    simp only [exec, execRegwr]
    cases regOfNumber r with
    | none => exact .inl ⟨_, rfl⟩
    | some n =>
      simp only []
      cases writeMask n with
      | none => exact .inl ⟨_, rfl⟩
      | some m => exact .inr (.inr (done _ _ _ (store_port _ _ _).1 (store_port _ _ _).2))
  | wclr =>
    simp only [exec, execWclr]
    exact .inr (.inr (done _ _ _ rfl rfl))
  | accset v =>
    simp only [exec, execAccset]
    exact .inr (.inr (done _ _ _ rfl rfl))
  | h84enc d =>
    simp only [exec, execH84enc]
    exact .inr (.inr (done _ _ _ rfl rfl))
  | h84dec b =>
    simp only [exec, execH84dec]
    exact .inr (.inr (done _ _ _ rfl rfl))
  | h24enc v =>
    simp only [exec, execH24enc]
    exact .inr (.inr (done _ _ _ rfl rfl))
  | h24dec c =>
    simp only [exec, execH24dec]
    exact .inr (.inr (done _ _ _ rfl rfl))
  | parenc d =>
    simp only [exec, execParenc]
    exact .inr (.inr (done _ _ _ rfl rfl))
  | pardec b =>
    simp only [exec, execPardec]
    exact .inr (.inr (done _ _ _ rfl rfl))
  | bitrev b =>
    simp only [exec, execBitrev]
    exact .inr (.inr (done _ _ _ rfl rfl))
  | pbwr idx val =>
    simp only [exec, execPbwr]
    split
    · exact .inr (.inr (done _ _ _ rfl rfl))
    · exact .inl ⟨_, rfl⟩
  | pbrd idx =>
    simp only [exec, execPbrd]
    split
    · exact .inr (.inr (done _ _ _ rfl rfl))
    · exact .inl ⟨_, rfl⟩
  | pbclr =>
    simp only [exec, execPbclr]
    exact .inr (.inr (done _ _ _ (setPb_port _ _) (setPb_responses _ _)))
  | fdwr idx last byte lsb wm1 off =>
    simp only [exec, execFdwr]
    split
    · split
      · exact .inr (.inr (done _ _ _ rfl rfl))
      · exact .inl ⟨_, rfl⟩
    · exact .inl ⟨_, rfl⟩
  | fdclr =>
    simp only [exec, execFdclr]
    exact .inr (.inr (done _ _ _ rfl rfl))
  | extract start =>
    simp only [exec, execExtract]
    cases walk s.fd start with
    | none => exact .inl ⟨_, rfl⟩
    | some segs => exact .inr (.inr (done _ _ _ rfl rfl))
  | insert start =>
    simp only [exec, execInsert]
    cases walk s.fd start with
    | none => exact .inl ⟨_, rfl⟩
    | some segs => exact .inr (.inr (done _ _ _ rfl rfl))
  | tripget k =>
    simp only [exec, execTripget]
    split
    · exact .inr (.inr (done _ _ _ rfl rfl))
    · exact .inl ⟨_, rfl⟩
  | tripput k v =>
    simp only [exec, execTripput]
    split
    · exact .inr (.inr (done _ _ _ rfl rfl))
    · exact .inl ⟨_, rfl⟩
  | ser tsel =>
    simp only [exec, execSer]
    split
    · cases serTemplate tsel s with
      | none => exact .inl ⟨_, rfl⟩
      | some t => exact .inr (.inr (done _ _ _ rfl rfl))
    · exact .inl ⟨_, rfl⟩
  | deser tsel =>
    simp only [exec]
    rcases deser_cases tsel s with ⟨-, h⟩ | ⟨-, ⟨-, h⟩ | ⟨raw, -, ⟨-, h⟩ | ⟨addr, -, ⟨-, h⟩ | ⟨t, -, h⟩⟩⟩⟩
    · exact .inl ⟨_, h⟩
    · exact .inl ⟨_, h⟩
    · rw [h, dropRecord, finishDeser]
      exact .inr (.inr (done _ _ _ rfl rfl))
    · exact .inl ⟨_, h⟩
    · rw [h, acceptRecord, finishDeser]
      exact .inr (.inr (done _ _ _ (storeHeader_host _ _ _).1 (storeHeader_host _ _ _).2))
  | sdrop =>
    simp only [exec, execSdrop]
    split
    · exact .inl ⟨_, rfl⟩
    · exact .inr (.inr (done _ _ _ rfl rfl))

end Sys2Proof.Laws
end

