-- ==== Sys2Proof/Laws/Fields.lean ====
section
/-! SUPPORT. Laws/Fields.lean: what the descriptor walk answers, and what one segment reads and writes. -/

namespace Sys2Proof.Laws

open Sys2Proof Sys2Proof.Machine

/-- The walk over a list of entries whose first `n` are valid and not LAST and whose next is valid and LAST. -/
theorem walkEntries_of_run (l : List FdEntry) (n : Nat) (hn : n < l.length)
    (hopen : ∀ k < n, (l.getD k FdEntry.empty).valid = true ∧ segLast (l.getD k FdEntry.empty).body = false)
    (hv : (l.getD n FdEntry.empty).valid = true) (hl : segLast (l.getD n FdEntry.empty).body = true) :
    walkEntries l = some ((List.range (n + 1)).map fun k => (l.getD k FdEntry.empty).body) := by
  induction l generalizing n with
  | nil => simp at hn
  | cons e tl ih =>
    cases n with
    | zero =>
      simp only [List.getD_cons_zero] at hv hl
      simp [walkEntries, hv, hl]
    | succ n =>
      have h0 := hopen 0 (by omega)
      simp only [List.getD_cons_zero] at h0
      simp only [List.getD_cons_succ] at hv hl
      have := ih n (by simpa using hn) (fun k hk => by simpa using hopen (k + 1) (by omega)) hv hl
      rw [walkEntries, if_pos h0.1, if_neg (by simp [h0.2]), this, List.range_succ_eq_map (n := n + 1)]
      simp [Function.comp_def]

/-- The walk over a list of entries whose first `n` are valid and not LAST and which then ends or has an entry that
is not valid. -/
theorem walkEntries_of_broken (l : List FdEntry) (n : Nat) (hn : n ≤ l.length)
    (hopen : ∀ k < n, (l.getD k FdEntry.empty).valid = true ∧ segLast (l.getD k FdEntry.empty).body = false)
    (hv : n < l.length → (l.getD n FdEntry.empty).valid = false) : walkEntries l = none := by
  induction l generalizing n with
  | nil => rfl
  | cons e tl ih =>
    cases n with
    | zero =>
      have := hv (by simp)
      simp only [List.getD_cons_zero] at this
      simp [walkEntries, this]
    | succ n =>
      have h0 := hopen 0 (by omega)
      simp only [List.getD_cons_zero] at h0
      have := ih n (by simpa using hn) (fun k hk => by simpa using hopen (k + 1) (by omega))
        (fun h => by simpa using hv (by simpa using h))
      simp [walkEntries, h0, this]

theorem getD_drop_fd (fd : Vector FdEntry Config.fdLen) (start k : Nat) :
    (fd.toList.drop start).getD k FdEntry.empty = fdAt fd (start + k) := by
  simp [fdAt, List.getD_eq_getElem?_getD, List.getElem?_drop]

/-- The walk from the start of a descriptor gives its bodies in order (R116, R120). -/
theorem walk_of_descriptor {fd : Vector FdEntry Config.fdLen} {start : BitVec 6} {n : Nat}
    (h : isDescriptor fd start.toNat n) : walk fd start = some (runBodies fd start.toNat n) := by
  obtain ⟨hn, hopen, hv, hl⟩ := h
  rw [walk, walkEntries_of_run _ n]
  · simp only [getD_drop_fd, runBodies]
  · simp; omega
  · exact fun k hk => by simpa only [getD_drop_fd] using hopen k hk
  · rwa [getD_drop_fd]
  · rwa [getD_drop_fd]

/-- The walk of a broken run gives nothing (R120). -/
theorem walk_of_broken {fd : Vector FdEntry Config.fdLen} {start : BitVec 6} (h : brokenRun fd start.toNat) :
    walk fd start = none := by
  have hs := start.isLt
  rcases h with ⟨n, hn, hopen, hv⟩ | hopen
  · refine walkEntries_of_broken _ n (by simp; omega) ?_ fun _ => ?_
    · exact fun k hk => by simpa only [getD_drop_fd] using hopen k hk
    · rwa [getD_drop_fd]
  · refine walkEntries_of_broken _ (64 - start.toNat) (by simp) ?_ fun h => ?_
    · exact fun k hk => by simpa only [getD_drop_fd] using hopen k hk
    · simp at h

end Sys2Proof.Laws
end

