-- ==== Sys2Proof/Laws/PerInstr.lean ====
section
/-! SUPPORT. Laws/PerInstr.lean: for every command, `W & mask == match` of its row in the opcode table holds of its
word (spec/30_encoding.md R63), one lemma a constructor. -/

namespace Sys2Proof.Laws

open Sys2Proof

/-- Two words are the same under a mask when their bits are. -/
theorem masked_eq (w m v : Word) (h : ∀ j < 32, (w.getLsbD j && m.getLsbD j) = v.getLsbD j) : w &&& m = v := by
  apply BitVec.eq_of_getLsbD_eq
  intro j hj
  rw [BitVec.getLsbD_and, h j hj]

/-- The word of the command, cut to the mask of its row, is the row's `match`: the opcode with every field zero. -/
def MaskMatch.Statement (i : Instr) : Prop := encode i &&& i.mask = fieldAt i.opcode 24

theorem MaskMatch.nop : MaskMatch.Statement .nop := by
  unfold MaskMatch.Statement
  decide

theorem MaskMatch.regrd (r : BitVec 8) : MaskMatch.Statement (.regrd r) := by
  unfold MaskMatch.Statement
  exact masked_eq _ _ _ fun j hj => by
    simp only [encode, Instr.mask, Instr.opcode, BitVec.getLsbD_or, getLsbD_fieldAt]
    interval_cases j <;> simp

theorem MaskMatch.regwr (r : BitVec 8) (val : BitVec 16) : MaskMatch.Statement (.regwr r val) := by
  unfold MaskMatch.Statement
  exact masked_eq _ _ _ fun j hj => by
    simp only [encode, Instr.mask, Instr.opcode, BitVec.getLsbD_or, getLsbD_fieldAt]
    interval_cases j <;> simp

theorem MaskMatch.wclr : MaskMatch.Statement .wclr := by
  unfold MaskMatch.Statement
  decide

theorem MaskMatch.accset (v : BitVec 24) : MaskMatch.Statement (.accset v) := by
  unfold MaskMatch.Statement
  exact masked_eq _ _ _ fun j hj => by
    simp only [encode, Instr.mask, Instr.opcode, BitVec.getLsbD_or, getLsbD_fieldAt]
    interval_cases j <;> simp

theorem MaskMatch.h84enc (v : BitVec 4) : MaskMatch.Statement (.h84enc v) := by
  unfold MaskMatch.Statement
  exact masked_eq _ _ _ fun j hj => by
    simp only [encode, Instr.mask, Instr.opcode, BitVec.getLsbD_or, getLsbD_fieldAt]
    interval_cases j <;> simp

theorem MaskMatch.h84dec (v : BitVec 8) : MaskMatch.Statement (.h84dec v) := by
  unfold MaskMatch.Statement
  exact masked_eq _ _ _ fun j hj => by
    simp only [encode, Instr.mask, Instr.opcode, BitVec.getLsbD_or, getLsbD_fieldAt]
    interval_cases j <;> simp

theorem MaskMatch.h24enc (v : BitVec 18) : MaskMatch.Statement (.h24enc v) := by
  unfold MaskMatch.Statement
  exact masked_eq _ _ _ fun j hj => by
    simp only [encode, Instr.mask, Instr.opcode, BitVec.getLsbD_or, getLsbD_fieldAt]
    interval_cases j <;> simp

theorem MaskMatch.h24dec (v : BitVec 24) : MaskMatch.Statement (.h24dec v) := by
  unfold MaskMatch.Statement
  exact masked_eq _ _ _ fun j hj => by
    simp only [encode, Instr.mask, Instr.opcode, BitVec.getLsbD_or, getLsbD_fieldAt]
    interval_cases j <;> simp

theorem MaskMatch.parenc (v : BitVec 7) : MaskMatch.Statement (.parenc v) := by
  unfold MaskMatch.Statement
  exact masked_eq _ _ _ fun j hj => by
    simp only [encode, Instr.mask, Instr.opcode, BitVec.getLsbD_or, getLsbD_fieldAt]
    interval_cases j <;> simp

theorem MaskMatch.pardec (v : BitVec 8) : MaskMatch.Statement (.pardec v) := by
  unfold MaskMatch.Statement
  exact masked_eq _ _ _ fun j hj => by
    simp only [encode, Instr.mask, Instr.opcode, BitVec.getLsbD_or, getLsbD_fieldAt]
    interval_cases j <;> simp

theorem MaskMatch.bitrev (v : BitVec 8) : MaskMatch.Statement (.bitrev v) := by
  unfold MaskMatch.Statement
  exact masked_eq _ _ _ fun j hj => by
    simp only [encode, Instr.mask, Instr.opcode, BitVec.getLsbD_or, getLsbD_fieldAt]
    interval_cases j <;> simp

theorem MaskMatch.pbwr (idx : BitVec 8) (val : BitVec 8) : MaskMatch.Statement (.pbwr idx val) := by
  unfold MaskMatch.Statement
  exact masked_eq _ _ _ fun j hj => by
    simp only [encode, Instr.mask, Instr.opcode, BitVec.getLsbD_or, getLsbD_fieldAt]
    interval_cases j <;> simp

theorem MaskMatch.pbrd (idx : BitVec 8) : MaskMatch.Statement (.pbrd idx) := by
  unfold MaskMatch.Statement
  exact masked_eq _ _ _ fun j hj => by
    simp only [encode, Instr.mask, Instr.opcode, BitVec.getLsbD_or, getLsbD_fieldAt]
    interval_cases j <;> simp

theorem MaskMatch.pbclr : MaskMatch.Statement .pbclr := by
  unfold MaskMatch.Statement
  decide

theorem MaskMatch.fdwr (idx : BitVec 6) (last : BitVec 1) (byte : BitVec 6) (lsb wm1 : BitVec 3) (off : BitVec 5) :
    MaskMatch.Statement (.fdwr idx last byte lsb wm1 off) := by
  unfold MaskMatch.Statement
  exact masked_eq _ _ _ fun j hj => by
    simp only [encode, Instr.mask, Instr.opcode, BitVec.getLsbD_or, getLsbD_fieldAt]
    interval_cases j <;> simp

theorem MaskMatch.fdclr : MaskMatch.Statement .fdclr := by
  unfold MaskMatch.Statement
  decide

theorem MaskMatch.extract (start : BitVec 6) : MaskMatch.Statement (.extract start) := by
  unfold MaskMatch.Statement
  exact masked_eq _ _ _ fun j hj => by
    simp only [encode, Instr.mask, Instr.opcode, BitVec.getLsbD_or, getLsbD_fieldAt]
    interval_cases j <;> simp

theorem MaskMatch.insert (start : BitVec 6) : MaskMatch.Statement (.insert start) := by
  unfold MaskMatch.Statement
  exact masked_eq _ _ _ fun j hj => by
    simp only [encode, Instr.mask, Instr.opcode, BitVec.getLsbD_or, getLsbD_fieldAt]
    interval_cases j <;> simp

theorem MaskMatch.tripget (k : BitVec 4) : MaskMatch.Statement (.tripget k) := by
  unfold MaskMatch.Statement
  exact masked_eq _ _ _ fun j hj => by
    simp only [encode, Instr.mask, Instr.opcode, BitVec.getLsbD_or, getLsbD_fieldAt]
    interval_cases j <;> simp

theorem MaskMatch.tripput (k : BitVec 4) (v : BitVec 18) : MaskMatch.Statement (.tripput k v) := by
  unfold MaskMatch.Statement
  exact masked_eq _ _ _ fun j hj => by
    simp only [encode, Instr.mask, Instr.opcode, BitVec.getLsbD_or, getLsbD_fieldAt]
    interval_cases j <;> simp

theorem MaskMatch.ser (tsel : BitVec 3) : MaskMatch.Statement (.ser tsel) := by
  unfold MaskMatch.Statement
  exact masked_eq _ _ _ fun j hj => by
    simp only [encode, Instr.mask, Instr.opcode, BitVec.getLsbD_or, getLsbD_fieldAt]
    interval_cases j <;> simp

theorem MaskMatch.deser (tsel : BitVec 3) : MaskMatch.Statement (.deser tsel) := by
  unfold MaskMatch.Statement
  exact masked_eq _ _ _ fun j hj => by
    simp only [encode, Instr.mask, Instr.opcode, BitVec.getLsbD_or, getLsbD_fieldAt]
    interval_cases j <;> simp

theorem MaskMatch.sdrop : MaskMatch.Statement .sdrop := by
  unfold MaskMatch.Statement
  decide

end Sys2Proof.Laws
end

