-- ==== Sys2Proof/Tests/Slice0.lean ====
section
/-! SUPPORT. Slice0.lean: the author's own tests. The expected words and results are those of
spec/95_test_vectors.md (its section is named at each test) or are written out by hand from the encoding formats of
spec/30_encoding.md; none is the model's own answer. The last part shows, for every statement that has hypotheses, a
state and operands that meet them. -/

namespace Sys2Proof.Tests

open Sys2Proof Sys2Proof.Machine

/-! ### Helpers -/

/-- The next state, where there is one. -/
def after (r : Result) : Option State :=
  match r with
  | .next s => some s
  | .fault _ => none
  | .refused _ => none

/-- There is a next state, and it has a property that evaluates. -/
theorem next_of_after (r : Result) (p : State → Bool) (h : (after r).any p = true) : ∃ t, r = .next t ∧ p t = true := by
  cases r with
  | next s => exact ⟨s, rfl, h⟩
  | fault f => exact Bool.noConfusion h
  | refused f => exact Bool.noConfusion h

/-- What the tables of spec/95_test_vectors.md list of a command: the response, ERR and STAT. -/
def outcome (r : Result) : Option (Word × BitVec 3 × BitVec 8) :=
  (after r).map fun s => (s.responses.getLastD 0, s.err, s.stat)

/-- What a command leaves in WARN, WCNT and ADDR. -/
def warnings (r : Result) : Option (BitVec 8 × BitVec 16 × BitVec 8) :=
  (after r).map fun s => (s.warn, s.wcnt, s.addr)

/-- What a command leaves in PAGE, SUB and CTL. -/
def header (r : Result) : Option (BitVec 8 × BitVec 16 × BitVec 11) :=
  (after r).map fun s => (s.page, s.sub, s.ctl)

/-- The 40 bytes of the packet buffer that a command leaves. -/
def buffer (r : Result) : Option (List Byte) := (after r).map fun s => s.pb.load 0 40

/-- The reset state with the packet buffer holding some bytes from PB[0] up. -/
def withPb (bytes : List Byte) : State := State.reset.setPb (Memory.store [] 0 bytes)

/-- The reset state with some bytes in SIN. -/
def withSin (bytes : List Byte) : State := State.reset.setSin bytes

/-- The reset state with the two descriptor entries of section 2.5 lines 3 and 5 and PB[10] = 2B, PB[11] = 3D. -/
def withFields : State :=
  (((State.reset.writeFd 0 ⟨true, 0x05060⟩).writeFd 1 ⟨true, 0x25944⟩).setPb [(10, 0x2B), (11, 0x3D)])

/-- The packet-buffer bytes of V6.8: designation code 4 and thirteen no-op triplets. -/
def noopBytes : List Byte := 0x04 :: (List.replicate 13 [0x29, 0x1E, 0x00]).flatten

/-- A record of two address bytes, a designation byte and thirteen no-op codewords (V6.8). -/
def tripRecord (b0 b1 b2 : Byte) : List Byte :=
  [b0, b1, b2] ++ (List.replicate 13 [0x45, 0xFA, 0x00]).flatten

/-- The record of V6.2: HELLO in row 1 of magazine 1. -/
def helloRecord : List Byte := [0xC7, 0x15, 0xC8, 0x45, 0x4C, 0x4C, 0x4F] ++ List.replicate 35 0x20

/-- The received record of V6.7: link 1 and the tail nibble damaged. -/
def linkRecord : List Byte :=
  [0xC7, 0xB6, 0x15, 0x02, 0x49, 0x5E, 0x64, 0x73, 0x38, 0x02, 0x49, 0x2C, 0x64, 0x73, 0x38] ++
    (List.replicate 4 [0x02, 0x49, 0x5E, 0x64, 0x73, 0x38]).flatten ++ [0x8F, 0x12, 0x34]

/-- The received record of V6.11: a header with three damaged bytes. -/
def headerRecord : List Byte :=
  [0x02, 0x15, 0x5E, 0x49, 0xEA, 0x01, 0xEA, 0xEA, 0xEA, 0xEB, 0x55, 0x50, 0x43] ++ List.replicate 29 0x20

/-- A record with an address and any payload. -/
def plainRecord (b0 b1 : Byte) : List Byte := [b0, b1] ++ List.replicate 40 0x20

/-! ### WellFormed: a legal and an ill-formed term for the one check (R66) -/

theorem test_wellFormed_ser_legal : (Instr.ser 4).wellFormed = true := by decide
theorem test_wellFormed_ser_reserved : (Instr.ser 5).wellFormed = false := by decide
theorem test_wellFormed_deser_legal : (Instr.deser 0).wellFormed = true := by decide
theorem test_wellFormed_deser_reserved : (Instr.deser 7).wellFormed = false := by decide

/-! ### Decoding: one word a row, opcode 8 bits and then the fields of the row's format (R54 to R63) -/

theorem test_decode_nop : decode 0b00000000_000000000000000000000000 = .ok .nop := by decide
theorem test_decode_regrd : decode 0b00000001_00001001_0000000000000000 = .ok (.regrd 9) := by decide
theorem test_decode_regwr : decode 0b00000010_00000111_0011111101111111 = .ok (.regwr 7 0x3F7F) := by decide
theorem test_decode_wclr : decode 0b00000011_000000000000000000000000 = .ok .wclr := by decide
theorem test_decode_accset : decode 0b00000100_000100100011010001010110 = .ok (.accset 0x123456) := by decide
theorem test_decode_h84enc : decode 0b00010000_00000000000000000000_1010 = .ok (.h84enc 0xA) := by decide
theorem test_decode_h84dec : decode 0b00010001_0000000000000000_10010101 = .ok (.h84dec 0x95) := by decide
theorem test_decode_h24enc : decode 0b00010010_000000_100000101111000011 = .ok (.h24enc 0x20BC3) := by decide
theorem test_decode_h24dec : decode 0b00010011_101001001011010000101111 = .ok (.h24dec 0xA4B42F) := by decide
theorem test_decode_parenc : decode 0b00010100_00000000000000000_1000001 = .ok (.parenc 0x41) := by decide
theorem test_decode_pardec : decode 0b00010101_0000000000000000_11000001 = .ok (.pardec 0xC1) := by decide
theorem test_decode_bitrev : decode 0b00010110_0000000000000000_10110110 = .ok (.bitrev 0xB6) := by decide
theorem test_decode_pbwr : decode 0b00100000_00000000_00001010_00101011 = .ok (.pbwr 10 0x2B) := by decide
theorem test_decode_pbrd : decode 0b00100001_00000000_00100111_00000000 = .ok (.pbrd 39) := by decide
theorem test_decode_pbclr : decode 0b00100010_000000000000000000000000 = .ok .pbclr := by decide
theorem test_decode_fdwr : decode 0b00110000_111111_0_100111_111_000_10111 = .ok (.fdwr 63 0 39 7 0 23) := by decide
theorem test_decode_fdwr_last : decode 0b00110000_000001_1_001011_001_010_00100 = .ok (.fdwr 1 1 11 1 2 4) := by
  decide
theorem test_decode_fdclr : decode 0b00110001_000000000000000000000000 = .ok .fdclr := by decide
theorem test_decode_extract : decode 0b00110010_000000000000000000_111111 = .ok (.extract 63) := by decide
theorem test_decode_insert : decode 0b00110011_000000000000000000_001000 = .ok (.insert 8) := by decide
theorem test_decode_tripget : decode 0b00110100_00_1100_000000000000000000 = .ok (.tripget 12) := by decide
theorem test_decode_tripput : decode 0b00110101_00_0001_111111111111100111 = .ok (.tripput 1 0x3FFE7) := by decide
theorem test_decode_ser : decode 0b01000000_000000000000000000000_010 = .ok (.ser 2) := by decide
theorem test_decode_deser : decode 0b01000001_000000000000000000000_011 = .ok (.deser 3) := by decide
theorem test_decode_sdrop : decode 0b01000010_000000000000000000000000 = .ok .sdrop := by decide

/-- R64: sections 2.4 lines 37 to 40. -/
theorem test_decode_unlisted : decode 0x05000000 = .eOpc ∧ decode 0x17000000 = .eOpc ∧ decode 0x43000000 = .eOpc ∧
    decode 0xFFFFFFFF = .eOpc := by decide

/-- R65 and R66: sections 2.1, 2.2, 2.3, 2.4, 2.5 and V6.1, one word for each row with a reserved bit. -/
theorem test_decode_reserved : ([0x00000001, 0x01010001, 0x03800000, 0x10000010, 0x11000115, 0x12040000, 0x14000080,
    0x15000100, 0x16000100, 0x20010000, 0x21000001, 0x32000040, 0x34000001, 0x35400000, 0x40000005, 0x40000007,
    0x40000008, 0x41000005] : List Word).map decode = List.replicate 18 .eOper := by decide +kernel

theorem test_decodeTableWord : decodeTableWord 32 0x30065944 = some (.fdwr 1 1 11 1 2 4) := by decide
theorem test_encode_fdwr : encode (.fdwr 1 1 11 1 2 4) = 0x30065944 := by decide

/-! ### The machine -/

theorem test_reset_memory_wf : State.reset.pb.wf = true := by decide

/-- Section 2.1: the word 0x11000016 presented to the reset state. -/
theorem test_step_runs_presented_word :
    outcome (step (State.reset.withFetchWord 32 0x11000016)) = some (0xFF, 0, 0x01) := by decide

/-- Section 2.4 line 37. -/
theorem test_step_unlisted_opcode :
    outcome (step (State.reset.withFetchWord 32 0x05000000)) = some (0, 1, 0) := by decide

/-- R41 b. -/
theorem test_step_append :
    (after (step (State.reset.setPort [.append 0x5A]))).map (·.sin) = some [0x5A] := by decide

/-- R187. -/
theorem test_step_reset :
    (after (step ((State.reset.setAcc 5).setPort [.reset]))).map (·.acc) = some 0 := by decide

/-! ### The parameter H84_CORRECTS (spec/90_conflicts.md C3: 144 data entries against 16) -/

theorem test_h84CorrectingTable : h84CorrectingTable.flatten.countP (· ≠ h84Invalid) = 144 := by decide +kernel
theorem test_h84ExactTable : h84ExactTable.flatten.countP (· ≠ h84Invalid) = 16 := by decide +kernel

/-! ### One instruction at a time (the section of spec/95_test_vectors.md in each name's comment) -/

/-- 2.4 line 25: a completing command clears ERR. -/
theorem test_nop : outcome (exec .nop (State.reset.setErr 2)) = some (0, 0, 0) := by decide
/-- 2.4 line 20: a successful REGRD leaves ERR alone. -/
theorem test_regrd_err : outcome (exec (.regrd 2) (State.reset.setErr 3)) = some (3, 3, 0) := by decide
/-- 2.4 line 19. -/
theorem test_regrd_range : outcome (exec (.regrd 10) State.reset) = some (0, 3, 0) := by decide
/-- 2.4 line 9. -/
theorem test_regwr_sub : (after (exec (.regwr 7 0xFFFF) State.reset)).map (·.sub) = some 0x3F7F := by decide
/-- 2.4 line 16. -/
theorem test_regwr_readonly : outcome (exec (.regwr 9 5) State.reset) = some (0, 3, 0) := by decide
/-- R108. -/
theorem test_wclr : warnings (exec .wclr ((State.reset.setWarn 0x80).setWcnt 1)) = some (0, 0, 0) := by decide
/-- 2.4 line 13. -/
theorem test_accset : (after (exec (.accset 0xFFFFFF) State.reset)).map (·.acc) = some 0xFFFFFF := by decide
/-- 2.1. -/
theorem test_h84enc : outcome (exec (.h84enc 0xA) State.reset) = some (0x8C, 0, 0) := by decide
/-- 2.1: the second of the two wrong bits makes the byte invalid. -/
theorem test_h84dec_invalid : outcome (exec (.h84dec 0x2C) State.reset) = some (0xFF, 0, 0x01) := by decide
/-- 2.1: one wrong bit is corrected without a flag. -/
theorem test_h84dec_corrects : outcome (exec (.h84dec 0xEB) State.reset) = some (0x0F, 0, 0) := by decide
/-- 2.2. -/
theorem test_h24enc : outcome (exec (.h24enc 0x12345) State.reset) = some (0x0024B42F, 0, 0) := by decide
/-- 2.2: bit 16 flipped. -/
theorem test_h24dec_corrects : outcome (exec (.h24dec 0x25B42F) State.reset) = some (0x40012345, 0, 0x02) := by
  decide
/-- 2.2: bits 2 and 23 flipped. -/
theorem test_h24dec_detects : outcome (exec (.h24dec 0xA4B42B) State.reset) = some (0x80000000, 0, 0x04) := by
  decide
/-- 2.3. -/
theorem test_parenc : outcome (exec (.parenc 0x41) State.reset) = some (0xC1, 0, 0) := by decide
/-- 2.3: the parity bit is not checked. -/
theorem test_pardec : outcome (exec (.pardec 0xFF) State.reset) = some (0x7F, 0, 0) := by decide
/-- 2.3. -/
theorem test_bitrev : outcome (exec (.bitrev 0x27) State.reset) = some (0xE4, 0, 0) := by decide
/-- 2.4 line 28. -/
theorem test_pbwr : (after (exec (.pbwr 39 0x80) State.reset)).map (·.pb) = some [(39, 0x80)] := by decide
/-- 2.4 line 30. -/
theorem test_pbwr_range : outcome (exec (.pbwr 40 0) State.reset) = some (0, 3, 0) := by decide
/-- 2.4 line 29. -/
theorem test_pbrd : outcome (exec (.pbrd 39) (State.reset.setPb [(39, 0x80)])) = some (0x80, 0, 0) := by decide
/-- 2.4 line 35. -/
theorem test_pbclr : (after (exec .pbclr (State.reset.setPb [(0, 0xFF)]))).map (·.pb) = some [] := by decide
/-- 2.5 line 5. -/
theorem test_fdwr : (after (exec (.fdwr 1 1 11 1 2 4) State.reset)).map (fun s => fdAt s.fd 1) =
    some ⟨true, 0x25944⟩ := by decide
/-- 2.5 line 25: both wrong, E_OPER is checked first. -/
theorem test_fdwr_order : outcome (exec (.fdwr 0 1 40 7 7 0) State.reset) = some (0, 2, 0) := by decide
/-- 2.5 line 35. -/
theorem test_fdclr : (after (exec .fdclr withFields)).map (fun s => (fdAt s.fd 0).valid) = some false := by decide
/-- 2.5 line 8. -/
theorem test_extract : outcome (exec (.extract 0) withFields) = some (0x6B, 0, 0) := by decide
/-- 2.5 line 14: a run may start in the middle; with line 7's PB[11] = 3D the value is 6 << 4. -/
theorem test_extract_middle : outcome (exec (.extract 1) withFields) = some (0x60, 0, 0) := by decide
/-- 2.5 lines 10 to 13. -/
theorem test_insert : (after (exec (.insert 0) (withFields.setAcc 0xFFFF15))).map (·.pb) =
    some [(10, 0x25), (11, 0x33)] := by decide
/-- 2.5 line 2. -/
theorem test_insert_broken : outcome (exec (.insert 63) State.reset) = some (0, 4, 0) := by decide
/-- 2.5, triplet slots, line 7. -/
theorem test_tripget : outcome (exec (.tripget 1) (State.reset.setPb [(4, 0x27), (5, 0x3F), (6, 0x3F)])) =
    some (0x00FFFFE7, 0, 0) := by decide
/-- 2.5, triplet slots, line 17: the bytes are masked to six bits. -/
theorem test_tripget_masks : outcome (exec (.tripget 0) (withPb [0, 0xFF, 0xC0, 0x41])) =
    some (0x0100103F, 0, 0) := by decide
/-- 2.5, triplet slots, line 2. -/
theorem test_tripput : (after (exec (.tripput 0 0x007A9) State.reset)).map (·.pb) =
    some [(1, 0x29), (2, 0x1E)] := by decide
/-- 2.5, triplet slots, line 12. -/
theorem test_tripput_range : outcome (exec (.tripput 13 0) State.reset) = some (0, 3, 0) := by decide
/-- V6.8. -/
theorem test_ser_trip : (after (exec (.ser 0) ((withPb noopBytes).setAddr 0x1B))).map (·.sout) =
    some (tripRecord 0xD0 0xB6 0x64) := by decide +kernel
/-- V6.1: packet 29 has no template. -/
theorem test_ser_notmpl : outcome (exec (.ser 0) (State.reset.setAddr 0x1D)) = some (0, 5, 0) := by decide
/-- V6.7. -/
theorem test_deser_link : outcome (exec (.deser 0) (withSin linkRecord)) = some (0x204, 0, 0x31) ∧
    buffer (exec (.deser 0) (withSin linkRecord)) =
      some ([0, 1, 2, 3, 4, 5, 6, 0xF, 0xF, 0xF, 7, 0xF, 3] ++ (List.replicate 4 [1, 2, 3, 4, 5, 6]).flatten ++
        [0, 0x12, 0x34]) := by decide +kernel
/-- V6.11. -/
theorem test_deser_header : outcome (exec (.deser 0) (withSin headerRecord)) = some (0x101, 0, 0x11) ∧
    warnings (exec (.deser 0) (withSin headerRecord)) = some (0x10, 1, 0x20) ∧
    header (exec (.deser 0) (withSin headerRecord)) = some (0x23, 0x3F0F, 0x7FE) := by decide +kernel
/-- P5 line 18. -/
theorem test_sdrop_truncated : outcome (exec .sdrop State.reset) = some (0, 6, 0) := by decide
/-- P5 line 17. -/
theorem test_sdrop : (after (exec .sdrop (withSin (tripRecord 0xC7 0xFD 0x15)))).map (·.sin) = some [] := by
  decide

/-! ### Witnesses: the hypotheses of each statement met together, each clause at the ends of its range -/

theorem witness_DecodeOfEncode : (Instr.deser 4).wellFormed = true ∧ (Instr.fdwr 63 1 63 7 7 31).wellFormed = true :=
  by decide

theorem witness_EncodeOfDecode : decode 0x3533FFFF = .ok (.tripput 12 0x3FFFF) := by decide

theorem witness_EveryWord_unlisted : opcodeOf 0x43000000 ∉ listedOpcodes := by decide
theorem witness_EveryWord_reserved : (Instr.nop).opcode = opcodeOf 0x00800000 ∧
    (0x00800000 : Word) &&& (Instr.nop).mask ≠ fieldAt (Instr.nop).opcode 24 := by decide
theorem witness_EveryWord_tsel : opcodeOf 0x41000005 = 0x41 ∧ 5 ≤ ((0x41000005 : Word).extractLsb' 0 3).toNat := by
  decide
theorem witness_EveryWord_command : (Instr.ser 0).opcode = opcodeOf 0x40000004 ∧
    (0x40000004 : Word) &&& (Instr.ser 0).mask = fieldAt (Instr.ser 0).opcode 24 ∧
    ((0x40000004 : Word).extractLsb' 0 3).toNat < 5 := by decide

theorem witness_UnlistedOpcode : (State.reset.withFetchWord 32 0x43000000).port = .command 0x43000000 :: [] ∧
    (0x43000000 : Word).extractLsb' 24 8 ∉ listedOpcodes := by decide
theorem witness_ReservedBit : (State.reset.withFetchWord 32 0x10000010).port = .command 0x10000010 :: [] ∧
    (0x10000010 : Word).extractLsb' 24 8 = (Instr.h84enc 0).opcode ∧
    (0x10000010 : Word) &&& (Instr.h84enc 0).mask ≠ fieldAt (Instr.h84enc 0).opcode 24 := by decide
theorem witness_StepRuns : (State.reset.withFetchWord 32 0x20002780).port = .command 0x20002780 :: [] ∧
    decode 0x20002780 = .ok (.pbwr 39 0x80) := by decide
theorem witness_HostEvents : (State.reset.setPort [.append 1]).port = .append 1 :: [] ∧
    (State.reset.setPort [.reset]).port = .reset :: [] ∧ State.reset.port = [] := by
  decide
theorem witness_ResetGives : ∃ t, ((State.reset.setAcc 5).setPort [.reset]).port = .reset :: [] ∧
    step ((State.reset.setAcc 5).setPort [.reset]) = .next t := ⟨_, rfl, rfl⟩
theorem witness_FirstCommand : (39 : BitVec 8).toNat < 40 ∧ (4 : BitVec 3).toNat < 5 ∧ (12 : BitVec 4).toNat < 13 := by
  decide
theorem witness_EveryCommandWord :
    (State.reset.withFetchWord 32 0x43000000).port = .command 0x43000000 :: [] := by decide
theorem witness_EveryStepKeeps : State.inv (withFields.setPort [.command 0x33000000]) = true ∧
    ∃ t, step (withFields.setPort [.command 0x33000000]) = .next t ∧ true = true :=
  ⟨by decide +kernel, next_of_after _ (fun _ => true) (by decide +kernel)⟩

theorem witness_FaultChanges : ∃ t, (∀ r, Instr.pbrd 40 ≠ .regrd r) ∧ exec (.pbrd 40) State.reset = .next t ∧
    t.err ≠ 0 := ⟨_, fun r h => (nomatch h), rfl, by decide⟩
theorem witness_FaultChanges_regrd : ∃ t, exec (.regrd 10) State.reset = .next t ∧
    (t.stat ≠ State.reset.stat ∨ t.err ≠ State.reset.err) := ⟨_, rfl, by decide⟩
theorem witness_StatAndErr : (∃ t, (∀ r, Instr.nop ≠ .regrd r) ∧ exec .nop State.reset = .next t) ∧
    (0 : BitVec 8).toNat < 10 ∧ (9 : BitVec 8).toNat < 10 ∧ 10 ≤ (10 : BitVec 8).toNat ∧ 10 ≤ (255 : BitVec 8).toNat :=
  ⟨⟨_, fun r h => (nomatch h), rfl⟩, by decide, by decide, by decide, by decide⟩
theorem witness_StatAndErr_reserved : (State.reset.withFetchWord 32 0x01010001).port = .command 0x01010001 :: [] ∧
    (0x01010001 : Word).extractLsb' 24 8 = 0x01 ∧ (0x01010001 : Word).extractLsb' 0 16 ≠ 0 := by decide
theorem witness_FaultChanges_decoding : (State.reset.withFetchWord 32 0x43000000).port = .command 0x43000000 :: [] ∧
    decode 0x43000000 = .eOpc ∧ decode 0x10000010 = .eOper := by decide
theorem witness_StatFlags : ∃ t, (∀ r, Instr.h84dec 0x16 ≠ .regrd r) ∧
    exec (.h84dec 0x16) State.reset = .next t ∧ t.stat ≠ 0 := ⟨_, fun r h => (nomatch h), rfl, by decide⟩
/-- One command meets every clause of the two statements about who writes what. -/
theorem witness_WrittenOnlyBy : ∃ t, exec .nop State.reset = .next t ∧ (∀ r v, Instr.nop ≠ .regwr r v) ∧
    (∀ k, Instr.nop ≠ .deser k) ∧ Instr.nop ≠ .wclr ∧ (∀ v, Instr.nop ≠ .accset v) ∧ (∀ k, Instr.nop ≠ .extract k) ∧
    (∀ a v, Instr.nop ≠ .pbwr a v) ∧ Instr.nop ≠ .pbclr ∧ (∀ k, Instr.nop ≠ .insert k) ∧
    (∀ k v, Instr.nop ≠ .tripput k v) ∧ (∀ a b c d e f, Instr.nop ≠ .fdwr a b c d e f) ∧ Instr.nop ≠ .fdclr ∧
    Instr.nop ≠ .sdrop ∧ ∀ k, Instr.nop ≠ .ser k :=
  ⟨_, rfl, by simp, by simp, by simp, by simp, by simp, by simp, by simp, by simp, by simp, by simp, by simp, by simp,
    by simp⟩
theorem witness_PacketBuffer : Memory.wf [(0, 1), (39, 2)] = true ∧ 39 < 40 ∧
    ∀ x, Memory.read [(0, 1), (39, 2)] x = Memory.read [(0, 1), (39, 2)] x := by
  exact ⟨by decide, by decide, fun _ => rfl⟩

theorem witness_Nearest : popcount8 (0x14 ^^^ h84e 0) ≤ 1 ∧ ∀ d : BitVec 4, 1 < popcount8 (0x16 ^^^ h84e d) := by
  decide
theorem witness_Corrects84 : (0 : BitVec 4) ≠ 1 ∧ h84d 0x16 = 0xFF ∧ popcount8 0x14 % 2 = 0 ∧ popcount8 0x15 % 2 = 1 ∧
    popcount8 0x16 % 2 = 1 ∧ popcount8 (0x12 ^^^ h84e 0) = 3 := by decide
/-- The positions of wrong bits at the ends of their ranges. -/
theorem witness_Syndrome : 1 ≤ 1 ∧ 1 ≤ 23 ∧ 23 ≤ 23 ∧ 0 < 24 ∧ 23 < 24 ∧ (0 : Nat) ≠ 23 := by decide
/-- Three wrong bits of either kind: the syndromes 56 and above, and those below. -/
theorem witness_Corrects2418 : 56 ≤ (h24Syndrome (h24enc 0 ^^^ (1#24 <<< 0) ^^^ (1#24 <<< 7) ^^^ (1#24 <<< 15))).toNat ∧
    (h24Syndrome (h24enc 0 ^^^ (1#24 <<< 0) ^^^ (1#24 <<< 22) ^^^ (1#24 <<< 23))).toNat < 56 := by decide

/-- For every `refusesReserved` of the statements, a word with a reserved bit set: opcode, lowest reserved bit, number
of bits, word. -/
theorem witness_refusesReserved : ∀ p ∈ ([(0x00, 0, 24, 0x00800000), (0x01, 0, 16, 0x01018000),
    (0x03, 0, 24, 0x03800000), (0x10, 4, 20, 0x10000010), (0x11, 8, 16, 0x11800000), (0x12, 18, 6, 0x12040000),
    (0x14, 7, 17, 0x14000080), (0x15, 8, 16, 0x15000100), (0x16, 8, 16, 0x16000100), (0x20, 16, 8, 0x20010000),
    (0x21, 16, 8, 0x21800000), (0x21, 0, 8, 0x21000001), (0x22, 0, 24, 0x22000001), (0x31, 0, 24, 0x31000001),
    (0x32, 6, 18, 0x32000040), (0x33, 6, 18, 0x33000040), (0x34, 22, 2, 0x34400000), (0x34, 0, 18, 0x34000001),
    (0x35, 22, 2, 0x35400000), (0x40, 3, 21, 0x40000008), (0x41, 3, 21, 0x41800000),
    (0x42, 0, 24, 0x42000001)] : List (BitVec 8 × Nat × Nat × Word)),
    p.2.2.2.extractLsb' 24 8 = p.1 ∧ p.2.2.2.extractLsb' p.2.1 p.2.2.1 ≠ 0 := by decide

theorem witness_Regrd : 10 ≤ (10 : BitVec 8).toNat ∧ 10 ≤ (255 : BitVec 8).toNat := by decide
theorem witness_Regwr : (4 : BitVec 8) ∉ [(0 : BitVec 8), 5, 6, 7, 8] ∧ (9 : BitVec 8) ∉ [(0 : BitVec 8), 5, 6, 7, 8] ∧
    (255 : BitVec 8) ∉ [(0 : BitVec 8), 5, 6, 7, 8] := by decide
theorem witness_PbwrPbrdPbclr : State.reset.pb.wf = true ∧ (39 : BitVec 8).toNat < 40 ∧ 40 ≤ (40 : BitVec 8).toNat := by
  decide
/-- The three cases of FDWR at their ends: lsb + W of 8 and 9, off + W of 24 and 25, byte 39 and 40. -/
theorem witness_Fdwr : (0 + ((7 : BitVec 3).toNat + 1) = 8) ∧ (8 < (1 : BitVec 3).toNat + ((7 : BitVec 3).toNat + 1)) ∧
    ((16 : BitVec 5).toNat + ((7 : BitVec 3).toNat + 1) = 24) ∧
    (24 < (17 : BitVec 5).toNat + ((7 : BitVec 3).toNat + 1)) ∧ 39 < (40 : BitVec 6).toNat ∧
    ¬ 39 < (39 : BitVec 6).toNat := by decide

theorem withFields_descriptor : isDescriptor withFields.fd (0 : BitVec 6).toNat 1 := by
  unfold isDescriptor openRun
  decide
theorem withFields_bodies : runBodies withFields.fd (0 : BitVec 6).toNat 1 = [0x05060, 0x25944] := by decide +kernel
theorem withFields_good : ∀ b ∈ runBodies withFields.fd (0 : BitVec 6).toNat 1, segGood b = true :=
  List.all_eq_true.1 (by rw [withFields_bodies]; decide)
theorem withFields_disjoint : segsDisjoint (runBodies withFields.fd (0 : BitVec 6).toNat 1) := by
  rw [withFields_bodies]
  refine List.pairwise_pair.2 ⟨fun a => ?_, by decide⟩
  by_cases ha : a = 10
  · subst ha; decide
  · have : segByte 0x05060 ≠ a := by rw [show segByte 0x05060 = 10 by decide]; omega
    unfold segPbBits
    rw [if_neg this]
    exact BitVec.zero_and
theorem witness_Extract : isDescriptor withFields.fd (0 : BitVec 6).toNat 1 := withFields_descriptor
theorem witness_InsertAndDisjoint : withFields.pb.wf = true ∧ isDescriptor withFields.fd (0 : BitVec 6).toNat 1 ∧
    (∀ b ∈ runBodies withFields.fd (0 : BitVec 6).toNat 1, segGood b = true) ∧
    segsDisjoint (runBodies withFields.fd (0 : BitVec 6).toNat 1) :=
  ⟨by decide, withFields_descriptor, withFields_good, withFields_disjoint⟩
/-- Both ways to break a run: an entry that is not valid, and the end of FD (2.5 line 16). -/
theorem witness_BrokenRun : brokenRun State.reset.fd (0 : BitVec 6).toNat ∧
    brokenRun (State.reset.writeFd 63 ⟨true, 0x13F17⟩).fd (63 : BitVec 6).toNat := by
  constructor
  · exact .inl ⟨0, by decide, fun k hk => absurd hk (Nat.not_lt_zero k), by decide⟩
  · right
    unfold openRun
    decide
theorem witness_TripgetTripput : (12 : BitVec 4).toNat < 13 ∧ 13 ≤ (13 : BitVec 4).toNat ∧ State.reset.pb.wf = true := by
  decide

/-- The cases of SER: AUTO, forced, AUTO without a template, a reserved operand. -/
theorem witness_Ser : mux (State.reset.addr.extractLsb' 0 5) ((State.reset.pb.read 0).extractLsb' 0 4) = some .hdr ∧
    (4 : BitVec 3) = Template.link.number ∧
    mux ((State.reset.setAddr 0x19).addr.extractLsb' 0 5) (((State.reset.setAddr 0x19).pb.read 0).extractLsb' 0 4) = none ∧
    5 ≤ (5 : BitVec 3).toNat := by decide
/-- Two packet buffers that differ in bits that TRIP does not carry. -/
theorem witness_SerMasks : ∀ i < 40, Memory.read [(1, 0xC0)] i &&& carriedBits .trip i =
    State.reset.pb.read i &&& carriedBits .trip i := by decide

/-! A state holds a record in raw framing, and in capture-wrapper framing behind three arbitrary bytes. -/

theorem holds_raw (record : List Byte) (h : record.length = 42) : holdsRecord (withSin record) record [] :=
  ⟨h, .inl ⟨rfl, (List.append_nil record).symm⟩⟩
theorem holds_wrapped (record : List Byte) (h : record.length = 42) :
    holdsRecord ((withSin ([1, 2, 3] ++ record.map reverseBits)).setMode 1) record [] :=
  ⟨h, .inr ⟨rfl, [1, 2, 3], rfl, (List.append_nil _).symm⟩⟩
theorem withSin_wf (l : List Byte) : (withSin l).pb.wf = true := rfl

theorem witness_DeserRefusals : 5 ≤ (5 : BitVec 3).toNat ∧ (4 : BitVec 3).toNat < 5 ∧
    (withSin (List.replicate 41 0)).sin.length < 42 ∧ (List.replicate 44 (0 : Byte)).length < 45 := by decide
theorem witness_DeserNotmpl : holdsRecord (withSin (plainRecord 0xC7 0xFD)) (plainRecord 0xC7 0xFD) [] ∧
    addressValid (plainRecord 0xC7 0xFD) ∧ recordPkt (plainRecord 0xC7 0xFD) ∈ [25, 29, 30, 31] :=
  ⟨holds_raw _ (by decide), by unfold addressValid; decide, by decide⟩
theorem witness_InvalidAddress : holdsRecord ((withSin ([1, 2, 3] ++ (plainRecord 0x01 0x15).map reverseBits)).setMode 1)
    (plainRecord 0x01 0x15) [] ∧ ¬ addressValid (plainRecord 0x01 0x15) :=
  ⟨holds_wrapped _ (by decide), by unfold addressValid; decide⟩
/-- Rows 1 (V6.2) and 24 under AUTO. -/
theorem witness_DeserRow : holdsRecord (withSin helloRecord) helloRecord [] ∧ addressValid helloRecord ∧
    recordPkt helloRecord = 1 ∧ addressValid (plainRecord 0x15 0xA1) ∧ recordPkt (plainRecord 0x15 0xA1) = 24 :=
  ⟨holds_raw _ (by decide), by unfold addressValid; decide, by decide, by unfold addressValid; decide, by decide⟩
theorem witness_DeserHdr : holdsRecord (withSin headerRecord) headerRecord [] ∧ addressValid headerRecord ∧
    recordPkt headerRecord = 0 := ⟨holds_raw _ (by decide), by unfold addressValid; decide, by decide⟩
/-- Packets 26, 28 and 27 with designation code 4. -/
theorem witness_DeserTrip : holdsRecord (withSin (tripRecord 0x02 0xB6 0x15)) (tripRecord 0x02 0xB6 0x15) [] ∧
    addressValid (tripRecord 0x02 0xB6 0x15) ∧ nibbleOf (tripRecord 0x02 0xB6 0x15) 2 ≠ 0xFF ∧
    recordPkt (tripRecord 0x02 0xB6 0x15) = 26 ∧ recordPkt (tripRecord 0x15 0xFD 0x15) = 28 ∧
    recordPkt (tripRecord 0xD0 0xB6 0x64) = 27 ∧ (nibbleOf (tripRecord 0xD0 0xB6 0x64) 2).toNat = 4 :=
  ⟨holds_raw _ (by decide), by unfold addressValid; decide, by decide, by decide, by decide, by decide, by decide⟩
theorem witness_DeserLink : holdsRecord (withSin linkRecord) linkRecord [] ∧ addressValid linkRecord ∧
    nibbleOf linkRecord 2 ≠ 0xFF ∧ recordPkt linkRecord = 27 ∧ (nibbleOf linkRecord 2).toNat ≤ 3 ∧
    (nibbleOf (tripRecord 0xD0 0xB6 0x5E) 2).toNat = 3 :=
  ⟨holds_raw _ (by decide), by unfold addressValid; decide, by decide, by decide, by decide, by decide⟩
theorem witness_InvalidDesignation : holdsRecord (withSin (tripRecord 0xD0 0xB6 0x01)) (tripRecord 0xD0 0xB6 0x01) [] ∧
    addressValid (tripRecord 0xD0 0xB6 0x01) ∧ nibbleOf (tripRecord 0xD0 0xB6 0x01) 2 = 0xFF ∧
    recordPkt (tripRecord 0xD0 0xB6 0x01) = 27 ∧ recordPkt (tripRecord 0x02 0xB6 0x01) = 26 ∧
    recordPkt (tripRecord 0x15 0xFD 0x01) = 28 :=
  ⟨holds_raw _ (by decide), by unfold addressValid; decide, by decide, by decide, by decide, by decide⟩
theorem witness_DeserAccounts :
    ∃ t, exec (.deser 0) (withSin linkRecord) = .next t ∧ decide (t.err = 0) = true :=
  next_of_after _ (fun t => decide (t.err = 0)) (by decide +kernel)
theorem witness_IncomingPrefix : (State.reset.setMode 1).mode = 1 ∧ 42 ≤ (helloRecord.map reverseBits).length ∧
    ∃ t, exec (.deser 2) { State.reset.setMode 1 with sin := [0, 0, 0] ++ helloRecord.map reverseBits } = .next t ∧
      decide (t.err = 0) = true :=
  ⟨rfl, by decide, next_of_after _ (fun t => decide (t.err = 0)) (by decide +kernel)⟩
theorem witness_Sdrop : 42 ≤ (withSin helloRecord).sin.length ∧ (withSin (List.replicate 41 0)).sin.length < 42 := by
  decide
theorem witness_SerializedPacket : State.reset.inv = true ∧ State.reset.sin = [] ∧
    ∃ s1, exec (.ser 0) State.reset = .next s1 ∧ decide (s1.err = 0) = true :=
  ⟨by decide +kernel, rfl, next_of_after _ (fun t => decide (t.err = 0)) (by decide +kernel)⟩

end Sys2Proof.Tests
end

section
/-! Proofs, spec/10_state.md. What the step does with a command word, which numbers name a register, and R21: apart from
REGRD no command reads STAT or ERR, and each ends in `complete` or `raiseFault`, which write both. -/

namespace Sys2Proof.Proofs

open Sys2Proof Sys2Proof.Machine

/-! ### A command word at the port -/

/-- A command word at the front of the port is taken from it and run (R41 a). -/
theorem step_of_command {s : State} {w : Word} {rest : List HostEvent} (hp : s.port = .command w :: rest) :
    step s = runCommand w { s with port := rest } := by
  rw [step, hp]
  rfl

/-- A command word that decoding refuses with E_OPER faults with ERR = 2 (R62, R65, R66, R172). -/
theorem step_of_eOper {s : State} {w : Word} {rest : List HostEvent} (hp : s.port = .command w :: rest)
    (hd : decode w = .eOper) : step s = .next (faulted 2 { s with port := rest }) := by
  rw [step_of_command hp, runCommand, hd]
  rfl

/-- The row of REGRD: the payload bits 15:0 are reserved (R56, R63). -/
theorem decode_of_opcode_regrd {w : Word} (hop : opcodeOf w = 0x01) :
    decode w = unreserved (w.extractLsb' 0 16) (.ok (.regrd (w.extractLsb' 16 8))) := by
  simp [decode, hop]

theorem unreserved_of_ne {n : Nat} {reserved : BitVec n} (h : reserved ≠ 0) (d : Decoded) :
    unreserved reserved d = .eOper := if_neg h

/-! ### Register numbers -/

/-- The numbers 0 to 9 name a register, no other does (R16, R28). -/
theorem regOfNumber_isSome_iff (r : BitVec 8) : (regOfNumber r).isSome ↔ r.toNat < 10 := by
  revert r
  decide +kernel

theorem exec_regrd_of_some {r : BitVec 8} {n : RegName} (h : regOfNumber r = some n) (s : State) :
    exec (.regrd r) s = .next (s.respond (readReg n s)) := by
  rw [exec, execRegrd, h]

theorem exec_regrd_of_none {r : BitVec 8} (h : regOfNumber r = none) (s : State) :
    exec (.regrd r) s = .next (faulted 3 s) := by
  rw [exec, execRegrd, h]
  rfl

/-! ### STAT and ERR are overwritten (R21) -/

/-- The end of a command that completes writes STAT and ERR, whatever they were. -/
theorem complete_overwrites (flags : BitVec 8) (rsp : Word) (s : State) (a : BitVec 8) (b : BitVec 3) :
    complete flags rsp { s with stat := a, err := b } = complete flags rsp s := rfl

/-- Taking a fault writes STAT and ERR, whatever they were (R172). -/
theorem raiseFault_overwrites (e : ErrCode) (s : State) (a : BitVec 8) (b : BitVec 3) :
    raiseFault e { s with stat := a, err := b } = raiseFault e s := rfl

/-- REGWR has no register that is STAT or ERR (R107), so its write passes over them. -/
theorem writeReg_withStatErr (n : RegName) (v : BitVec 16) (s : State) (a : BitVec 8) (b : BitVec 3) :
    writeReg n v { s with stat := a, err := b } = { writeReg n v s with stat := a, err := b } := by
  cases n <;> rfl

theorem execRegwr_overwrites (r : BitVec 8) (val : BitVec 16) (s : State) (a : BitVec 8) (b : BitVec 3) :
    execRegwr r val { s with stat := a, err := b } = execRegwr r val s := by
  unfold execRegwr
  cases regOfNumber r with
  | none => simp only [raiseFault_overwrites]
  | some n =>
    cases hm : writeMask n with
    | none => simp only [hm, raiseFault_overwrites]
    | some m => simp only [hm, writeReg_withStatErr, complete_overwrites]

/-- A DESER that accepts a record: what it stores passes over STAT and ERR, and its end writes both. -/
theorem acceptRecord_overwrites (t : Template) (addr : BitVec 8) (raw : List Byte) (s : State) (a : BitVec 8)
    (b : BitVec 3) : acceptRecord t addr raw { s with stat := a, err := b } = acceptRecord t addr raw s := by
  cases t <;> rfl

theorem dropRecord_overwrites (s : State) (a : BitVec 8) (b : BitVec 3) :
    dropRecord { s with stat := a, err := b } = dropRecord s := rfl

/-- The record at the head of SIN and its framing depend on SIN and MODE only. -/
theorem headRecord_withStatErr (s : State) (a : BitVec 8) (b : BitVec 3) :
    headRecord { s with stat := a, err := b } = headRecord s := rfl

theorem execDeser_overwrites (tsel : BitVec 3) (s : State) (a : BitVec 8) (b : BitVec 3) :
    execDeser tsel { s with stat := a, err := b } = execDeser tsel s := by
  simp only [execDeser, headRecord_withStatErr, raiseFault_overwrites, dropRecord_overwrites,
    acceptRecord_overwrites]

/-- Every command but REGRD ends the same from any STAT and ERR. All but REGWR and DESER store to fixed items of the
state, so that both sides compute to the same state. -/
theorem exec_overwrites {i : Instr} (hi : ∀ r, i ≠ .regrd r) (s : State) (a : BitVec 8) (b : BitVec 3) :
    exec i { s with stat := a, err := b } = exec i s := by
  cases i with
  | regrd r => exact absurd rfl (hi r)
  | regwr r val => exact execRegwr_overwrites r val s a b
  | deser tsel => exact execDeser_overwrites tsel s a b
  | nop | wclr | accset | h84enc | h84dec | h24enc | h24dec | parenc | pardec | bitrev | pbwr | pbrd | pbclr
  | fdwr | fdclr | extract | insert | tripget | tripput | ser | sdrop => rfl

/-- Settles O16: the commands other than REGRD by `exec_overwrites`, REGRD by whether its number names a register, a
refused REGRD word by its row of the decoder. -/
theorem everyCommandButASuccessfulRegrdWritesStatAndErr :
    Obligations.EveryCommandButASuccessfulRegrdWritesStatAndErr := by
  unfold Obligations.EveryCommandButASuccessfulRegrdWritesStatAndErr
  refine ⟨?others, ?completes, ?faults, ?refused⟩
  case others =>
    intro i s t a b hi h
    rw [exec_overwrites hi, h]
  case completes =>
    intro r s hr
    obtain ⟨n, hn⟩ := Option.isSome_iff_exists.1 ((regOfNumber_isSome_iff r).2 hr)
    exact ⟨_, exec_regrd_of_some hn s, rfl, rfl⟩
  case faults =>
    intro r s hr
    have hnone : regOfNumber r = none :=
      Option.not_isSome_iff_eq_none.1 fun h => absurd ((regOfNumber_isSome_iff r).1 h) (by omega)
    exact exec_regrd_of_none hnone s
  case refused =>
    intro s w rest hp hop hres
    exact step_of_eOper hp (by rw [decode_of_opcode_regrd hop, unreserved_of_ne hres])

end Sys2Proof.Proofs
end

section
/-! Proofs, spec/30_encoding.md. The decoder said once for all 24 rows: a word with the opcode of a row is refused when
it has a 1 in the row's reserved bits, and is otherwise the row's command with its fields read from the word (R62). -/

namespace Sys2Proof.Proofs

open Sys2Proof Sys2Proof.Machine Sys2Proof.Laws

/-! ### The row of a command -/

/-- The word with a 1 in each of the `n` bits from bit `lo` up. -/
def onesAt (lo n : Nat) : Word := fieldAt (BitVec.allOnes n) lo

/-- The reserved bits of a command's row: the payload bits that the row's format assigns to no field (R53 to R61). -/
def reservedBits : Instr → Word
  | .nop | .wclr | .pbclr | .fdclr | .sdrop => onesAt 0 24
  | .regwr _ _ | .accset _ | .h24dec _ | .fdwr _ _ _ _ _ _ => 0
  | .regrd _ => onesAt 0 16
  | .h84enc _ => onesAt 4 20
  | .parenc _ => onesAt 7 17
  | .h84dec _ | .pardec _ | .bitrev _ => onesAt 8 16
  | .h24enc _ => onesAt 18 6
  | .pbwr _ _ => onesAt 16 8
  | .pbrd _ => onesAt 16 8 ||| onesAt 0 8
  | .extract _ | .insert _ => onesAt 6 18
  | .tripget _ => onesAt 22 2 ||| onesAt 0 18
  | .tripput _ _ => onesAt 22 2
  | .ser _ | .deser _ => onesAt 3 21

/-- The command of the row of a given command with its fields taken from the word, each from the place that the row's
format gives it (R54 to R61). -/
def readFields (w : Word) : Instr → Instr
  | .nop => .nop
  | .regrd _ => .regrd (w.extractLsb' 16 8)
  | .regwr _ _ => .regwr (w.extractLsb' 16 8) (w.extractLsb' 0 16)
  | .wclr => .wclr
  | .accset _ => .accset (w.extractLsb' 0 24)
  | .h84enc _ => .h84enc (w.extractLsb' 0 4)
  | .h84dec _ => .h84dec (w.extractLsb' 0 8)
  | .h24enc _ => .h24enc (w.extractLsb' 0 18)
  | .h24dec _ => .h24dec (w.extractLsb' 0 24)
  | .parenc _ => .parenc (w.extractLsb' 0 7)
  | .pardec _ => .pardec (w.extractLsb' 0 8)
  | .bitrev _ => .bitrev (w.extractLsb' 0 8)
  | .pbwr _ _ => .pbwr (w.extractLsb' 8 8) (w.extractLsb' 0 8)
  | .pbrd _ => .pbrd (w.extractLsb' 8 8)
  | .pbclr => .pbclr
  | .fdwr _ _ _ _ _ _ => .fdwr (w.extractLsb' 18 6) (w.extractLsb' 17 1) (w.extractLsb' 11 6) (w.extractLsb' 8 3)
      (w.extractLsb' 5 3) (w.extractLsb' 0 5)
  | .fdclr => .fdclr
  | .extract _ => .extract (w.extractLsb' 0 6)
  | .insert _ => .insert (w.extractLsb' 0 6)
  | .tripget _ => .tripget (w.extractLsb' 18 4)
  | .tripput _ _ => .tripput (w.extractLsb' 18 4) (w.extractLsb' 0 18)
  | .ser _ => .ser (w.extractLsb' 0 3)
  | .deser _ => .deser (w.extractLsb' 0 3)
  | .sdrop => .sdrop

/-- Step 3 of R62 for any row: a command with a reserved operand value is E_OPER, every other is the command. -/
def acceptWellFormed (i : Instr) : Decoded := if i.wellFormed then .ok i else .eOper

theorem withTsel_ser (tsel : BitVec 3) : withTsel tsel (.ser tsel) = acceptWellFormed (.ser tsel) := rfl

theorem withTsel_deser (tsel : BitVec 3) : withTsel tsel (.deser tsel) = acceptWellFormed (.deser tsel) := rfl

@[simp] theorem opcode_readFields (w : Word) (i : Instr) : (readFields w i).opcode = i.opcode := by
  cases i <;> rfl

/-- Only SER and DESER have an operand value that decoding refuses (R66). -/
theorem wellFormed_readFields_iff (w : Word) (i : Instr) :
    (readFields w i).wellFormed = true ↔ (i.opcode = 0x40 ∨ i.opcode = 0x41 → (w.extractLsb' 0 3).toNat < 5) := by
  cases i with
  | ser | deser => simp [readFields, Instr.wellFormed, Instr.opcode, tselLegal]
  | _ => simp [readFields, Instr.wellFormed, Instr.opcode]

/-- The `mask` column of R63 is the opcode bits and the reserved bits of the formats. -/
theorem mask_eq (i : Instr) : i.mask = reservedBits i ||| 0xFF000000 := by
  cases i <;> (rw [reservedBits, Instr.mask]; decide)

theorem reservedBits_eq (i : Instr) : reservedBits i = i.mask &&& 0x00FFFFFF := by
  cases i <;> (rw [reservedBits, Instr.mask]; decide)

/-! ### A word under a mask -/

theorem and_opcodeBits (w : Word) : w &&& 0xFF000000 = fieldAt (opcodeOf w) 24 :=
  masked_eq _ _ _ fun j hj => by
    simp only [getLsbD_fieldAt, opcodeOf]
    interval_cases j <;> simp

theorem fieldAt_opcode_and_payloadBits (op : BitVec 8) : fieldAt op 24 &&& 0x00FFFFFF = 0 :=
  masked_eq _ _ _ fun j hj => by
    simp only [getLsbD_fieldAt]
    interval_cases j <;> simp

/-- A field read from a word and put back in its place is the word cut to the bits of the field. -/
theorem fieldAt_extractLsb' (w : Word) (lo n : Nat) :
    fieldAt (w.extractLsb' lo n) lo = w &&& onesAt lo n := by
  refine (masked_eq _ _ _ fun j hj => ?_).symm
  rw [onesAt, getLsbD_fieldAt, getLsbD_fieldAt, BitVec.getLsbD_extractLsb', BitVec.getLsbD_allOnes]
  by_cases hlo : j < lo
  · simp [hlo]
  · rw [Nat.add_sub_cancel' (Nat.le_of_not_lt hlo)]
    simp [hlo, hj, Bool.and_comm]

/-- A field of a word is zero when the word has no 1 in the bits of the field. -/
theorem extractLsb'_eq_zero_iff (w : Word) {lo n : Nat} (h : lo + n ≤ 32) :
    w.extractLsb' lo n = 0 ↔ w &&& onesAt lo n = 0 := by
  rw [← fieldAt_extractLsb']
  constructor
  · intro h0
    rw [h0]
    simp [fieldAt]
  · intro h0
    have hself := extractLsb'_fieldAt_self (w.extractLsb' lo n) lo n h rfl
    rw [h0, BitVec.setWidth_eq] at hself
    rw [← hself]
    simp

/-- Among the words of a row, `W & mask == match` says that the reserved bits are 0 (R63). -/
theorem matches_iff {w : Word} {i : Instr} (hop : opcodeOf w = i.opcode) :
    w &&& i.mask = fieldAt i.opcode 24 ↔ w &&& reservedBits i = 0 := by
  constructor
  · intro h
    rw [reservedBits_eq, ← BitVec.and_assoc, h, fieldAt_opcode_and_payloadBits]
  · intro h
    rw [mask_eq, BitVec.and_or_distrib_left, h, and_opcodeBits, hop]
    exact BitVec.zero_or

/-! ### Step 2 of R62 -/

@[simp] theorem unreserved_eOper {n : Nat} (reserved : BitVec n) : unreserved reserved .eOper = .eOper := ite_self _

theorem unreserved_of_eq {n : Nat} {reserved : BitVec n} (h : reserved = 0) (d : Decoded) :
    unreserved reserved d = d := if_pos h

theorem unreserved_extractLsb' (w : Word) {lo n : Nat} (h : lo + n ≤ 32) (d : Decoded) :
    unreserved (w.extractLsb' lo n) d = unreserved (w &&& onesAt lo n) d := by
  simp only [unreserved, extractLsb'_eq_zero_iff w h]

/-- Two reserved fields are tested as one. -/
theorem unreserved_unreserved (w a b : Word) (d : Decoded) :
    unreserved (w &&& a) (unreserved (w &&& b) d) = unreserved (w &&& (a ||| b)) d := by
  have both : w &&& (a ||| b) = 0 ↔ w &&& a = 0 ∧ w &&& b = 0 := by
    rw [BitVec.and_or_distrib_left]
    exact BitVec.or_eq_zero_iff
  simp only [unreserved, both, ite_and]

/-! ### The decoder by rows -/

/-- A word whose opcode has no row is E_OPC (R62 step 1). -/
theorem decode_of_unlisted {w : Word} (h : opcodeOf w ∉ listedOpcodes) : decode w = .eOpc := by
  simp only [listedOpcodes, List.mem_cons, List.not_mem_nil, or_false, not_or] at h
  simp only [decode, h, if_false]

/-- A word with the opcode of a row is that row's command with its fields, unless a reserved bit or a reserved operand
value refuses it (R62 steps 2 to 4). The rows by shape: without reserved bits, with a `tsel`, and the others, which have
one or two reserved fields. -/
theorem decode_of_opcode {w : Word} {i : Instr} (hop : opcodeOf w = i.opcode) :
    decode w = unreserved (w &&& reservedBits i) (acceptWellFormed (readFields w i)) := by
  cases i with
  | regwr | accset | h24dec | fdwr =>
    simp [decode, hop, Instr.opcode, reservedBits, unreserved_of_eq, readFields, acceptWellFormed, Instr.wellFormed]
  | ser | deser =>
    simp [decode, hop, Instr.opcode, reservedBits, unreserved_extractLsb', readFields, withTsel_ser, withTsel_deser]
  | _ =>
    simp [decode, hop, Instr.opcode, reservedBits, unreserved_extractLsb', unreserved_unreserved, readFields,
      acceptWellFormed, Instr.wellFormed]

/-- The word of the command that the fields are read into: the row's opcode, and the bits of the word that are neither
opcode nor reserved. -/
theorem encode_readFields (w : Word) (i : Instr) :
    encode (readFields w i) = fieldAt i.opcode 24 ||| (w &&& ~~~i.mask) := by
  cases i <;>
    simp only [encode, readFields, Instr.opcode, Instr.mask, fieldAt_extractLsb', BitVec.or_assoc,
      ← BitVec.and_or_distrib_left] <;>
    simp [onesAt, fieldAt]

/-- A word that matches its row is the word of the command read from it. -/
theorem encode_readFields_of_matches {w : Word} {i : Instr} (h : w &&& i.mask = fieldAt i.opcode 24) :
    encode (readFields w i) = w := by
  rw [encode_readFields, ← h, ← BitVec.and_or_distrib_left, BitVec.or_not_self, BitVec.and_allOnes]

/-- A 1 in a reserved bit is E_OPER (R65). -/
theorem decode_of_reserved {w : Word} {i : Instr} (hop : opcodeOf w = i.opcode)
    (h : w &&& i.mask ≠ fieldAt i.opcode 24) : decode w = .eOper := by
  rw [decode_of_opcode hop, unreserved_of_ne (mt (matches_iff hop).2 h)]

/-- A reserved operand value is E_OPER (R66). -/
theorem decode_of_not_wellFormed {w : Word} {i : Instr} (hop : opcodeOf w = i.opcode)
    (h : ¬ (readFields w i).wellFormed = true) : decode w = .eOper := by
  rw [decode_of_opcode hop, acceptWellFormed, if_neg h, unreserved_eOper]

/-- Every other word is the command of its row (R62 step 4). -/
theorem decode_of_matches {w : Word} {i : Instr} (hop : opcodeOf w = i.opcode)
    (h : w &&& i.mask = fieldAt i.opcode 24) (hwf : (readFields w i).wellFormed = true) :
    decode w = .ok (readFields w i) := by
  rw [decode_of_opcode hop, unreserved_of_eq ((matches_iff hop).1 h), acceptWellFormed, if_pos hwf]

/-- A word of SER or DESER with `tsel` 5, 6 or 7 is E_OPER (R66). -/
theorem decode_of_reserved_tsel {w : Word} (hop : opcodeOf w = 0x40 ∨ opcodeOf w = 0x41)
    (h : 5 ≤ (w.extractLsb' 0 3).toNat) : decode w = .eOper := by
  have refused {i : Instr} (hi : opcodeOf w = i.opcode) : decode w = .eOper := by
    refine decode_of_not_wellFormed hi fun hwf => ?_
    rw [wellFormed_readFields_iff, ← hi] at hwf
    exact absurd (hwf hop) (by omega)
  rcases hop with hser | hdeser
  · exact refused (i := .ser 0) hser
  · exact refused (i := .deser 0) hdeser

/-- Settles O3: the four cases of R62 in order, each a fact of the decoder by rows. -/
theorem everyWordIsACommandOrIsRefused : Obligations.EveryWordIsACommandOrIsRefused := by
  unfold Obligations.EveryWordIsACommandOrIsRefused
  intro w
  refine ⟨decode_of_unlisted, fun i hi => decode_of_reserved hi.symm, decode_of_reserved_tsel, ?command⟩
  case command =>
    intro i hi hmatch htsel
    have hwf : (readFields w i).wellFormed = true := (wellFormed_readFields_iff w i).2 (hi ▸ htsel)
    exact ⟨readFields w i, decode_of_matches hi.symm hmatch hwf, opcode_readFields w i,
      encode_readFields_of_matches hmatch⟩

/-! ### The decoding faults at the port -/

/-- A command word that decoding refuses with E_OPC faults with ERR = 1 (R62, R64, R172). -/
theorem step_of_eOpc {s : State} {w : Word} {rest : List HostEvent} (hp : s.port = .command w :: rest)
    (hd : decode w = .eOpc) : step s = .next (faulted 1 { s with port := rest }) := by
  rw [step_of_command hp, runCommand, hd]
  rfl

/-- Settles O6: the row's reserved bits refuse the word, and the step takes the fault. -/
theorem reservedBitFaultsEOper : Obligations.ReservedBitFaultsEOper := by
  unfold Obligations.ReservedBitFaultsEOper
  intro s w rest i hp hop hres
  exact step_of_eOper hp (decode_of_reserved hop hres)

/-- Settles O5: no row has the opcode, and the step takes the fault. -/
theorem unlistedOpcodeFaultsEOpc : Obligations.UnlistedOpcodeFaultsEOpc := by
  unfold Obligations.UnlistedOpcodeFaultsEOpc
  intro s w rest hp hop
  exact step_of_eOpc hp (decode_of_unlisted hop)

end Sys2Proof.Proofs
end

section
/-! Proofs, spec/40_hamming84.md. The 8/4 code from a few evaluated facts of its tables: codewords are at least four
bits apart and odd, every byte is within two bits of one, and the decode table is the formula of R74. The rest of R74
and R75 follows by counting differing bits. -/

namespace Sys2Proof.Proofs

open Sys2Proof Sys2Proof.Machine Sys2Proof.Laws

/-! ### Counting the one bits of a byte -/

/-- Where two bits are both 1, their exclusive or counts neither and the sum counts both. -/
theorem countP_xor_add_countP_and (a b : Byte) (l : List Nat) :
    l.countP (fun i => (a ^^^ b).getLsbD i) + 2 * l.countP (fun i => (a &&& b).getLsbD i) =
      l.countP (fun i => a.getLsbD i) + l.countP (fun i => b.getLsbD i) := by
  induction l with
  | nil => rfl
  | cons i rest ih =>
    simp only [List.countP_cons, BitVec.getLsbD_xor, BitVec.getLsbD_and] at ih ⊢
    cases a.getLsbD i <;> cases b.getLsbD i <;> simp <;> omega

theorem popcount8_xor_add (a b : Byte) :
    popcount8 (a ^^^ b) + 2 * popcount8 (a &&& b) = popcount8 a + popcount8 b :=
  countP_xor_add_countP_and a b (List.range 8)

theorem popcount8_eq_zero_iff (b : Byte) : popcount8 b = 0 ↔ b = 0 := by
  constructor
  · intro h
    rw [popcount8, List.countP_eq_zero] at h
    refine BitVec.eq_of_getLsbD_eq fun i hi => ?_
    simpa using h i (List.mem_range.2 hi)
  · rintro rfl
    decide

/-- The number of differing bits is a distance: it satisfies the triangle inequality. -/
theorem popcount8_xor_triangle (a b c : Byte) :
    popcount8 (a ^^^ c) ≤ popcount8 (b ^^^ a) + popcount8 (b ^^^ c) := by
  have hsum := popcount8_xor_add (b ^^^ a) (b ^^^ c)
  have hcancel : (b ^^^ a) ^^^ (b ^^^ c) = a ^^^ c := by
    rw [BitVec.xor_comm b a, BitVec.xor_assoc, ← BitVec.xor_assoc b b c, BitVec.xor_self, BitVec.zero_xor]
  rw [hcancel] at hsum
  omega

/-! ### The tables -/

/-- Any two codewords differ in 4 or in 8 bits (R75 a). -/
theorem popcount8_h84e_xor_h84e (d e : BitVec 4) (h : d ≠ e) :
    popcount8 (h84e d ^^^ h84e e) = 4 ∨ popcount8 (h84e d ^^^ h84e e) = 8 := by
  revert d e
  decide +kernel

/-- No byte is more than two bits from the nearest codeword (R75 c). -/
theorem exists_h84e_within_two (b : Byte) : ∃ d, popcount8 (b ^^^ h84e d) ≤ 2 := by
  revert b
  decide +kernel

/-- Every codeword has an odd number of one bits (R75 d). -/
theorem popcount8_h84e_odd (d : BitVec 4) : popcount8 (h84e d) % 2 = 1 := by
  revert d
  decide +kernel

/-- The printed decode table is the one that the formula of R74 derives. -/
theorem h84d_eq_h84Nearest (b : Byte) : h84d b = h84Nearest b := by
  revert b
  decide +kernel

/-- 144 entries of the decode table are data (R75 b). -/
theorem countP_h84d_ne_invalid : ((List.range 256).countP fun b => h84d (BitVec.ofNat 8 b) ≠ 0xFF) = 144 := by
  decide +kernel

/-- The generating equations give the encode table (R73). -/
theorem h84e_eq_h84Equations (d : BitVec 4) : h84e d = h84Equations d := by
  revert d
  decide +kernel

/-! ### The nearest codeword -/

/-- The data of an entry, a nibble, is not the sentinel. -/
theorem setWidth_nibble_ne_invalid (d : BitVec 4) : d.setWidth 8 ≠ (0xFF : Byte) := by
  revert d
  decide

theorem setWidth_nibble_inj {d e : BitVec 4} (h : d.setWidth 8 = e.setWidth 8) : d = e := by
  have hback := congrArg (BitVec.setWidth 4) h
  rwa [BitVec.setWidth_setWidth_of_le _ (by decide), BitVec.setWidth_setWidth_of_le _ (by decide),
    BitVec.setWidth_eq, BitVec.setWidth_eq] at hback

/-- The `d` of R74 is unique: two codewords within one bit of a byte would be at most two bits apart. -/
theorem eq_of_h84e_within_one {b : Byte} {d e : BitVec 4} (hd : popcount8 (b ^^^ h84e d) ≤ 1)
    (he : popcount8 (b ^^^ h84e e) ≤ 1) : d = e := by
  by_contra hne
  have hfar := popcount8_h84e_xor_h84e d e hne
  have hnear := popcount8_xor_triangle (h84e d) b (h84e e)
  omega

/-- What the search of R74 can find: the data of a codeword within one bit, or the sentinel when there is none. -/
theorem h84d_cases (b : Byte) :
    (∃ d, popcount8 (b ^^^ h84e d) ≤ 1 ∧ h84d b = d.setWidth 8) ∨
      ((∀ d, 1 < popcount8 (b ^^^ h84e d)) ∧ h84d b = 0xFF) := by
  rw [h84d_eq_h84Nearest, h84Nearest]
  split
  case h_1 n hfind =>
    have hn : n < 16 := List.mem_range.1 (List.mem_of_find?_eq_some hfind)
    refine .inl ⟨BitVec.ofNat 4 n, by simpa [h84Corrects] using List.find?_some hfind, ?_⟩
    apply BitVec.eq_of_toNat_eq
    simp only [BitVec.toNat_ofNat, BitVec.toNat_setWidth]
    omega
  case h_2 hfind =>
    refine .inr ⟨fun d => ?_, rfl⟩
    have hfar := List.find?_eq_none.1 hfind d.toNat (List.mem_range.2 d.isLt)
    simpa [h84Corrects] using hfar

theorem h84d_of_within_one {b : Byte} {d : BitVec 4} (h : popcount8 (b ^^^ h84e d) ≤ 1) :
    h84d b = d.setWidth 8 := by
  rcases h84d_cases b with ⟨e, he, hdata⟩ | ⟨hfar, -⟩
  · rw [hdata, eq_of_h84e_within_one he h]
  · exact absurd (hfar d) (by omega)

theorem h84d_of_far {b : Byte} (h : ∀ d, 1 < popcount8 (b ^^^ h84e d)) : h84d b = 0xFF := by
  rcases h84d_cases b with ⟨e, he, -⟩ | ⟨-, hinv⟩
  · exact absurd (h e) (by omega)
  · exact hinv

/-- Settles O21: what R74's search finds, and that only one codeword is so near. -/
theorem hamming84DecodesToTheNearestCodeword : Obligations.Hamming84DecodesToTheNearestCodeword := by
  unfold Obligations.Hamming84DecodesToTheNearestCodeword
  exact fun b => ⟨fun d => h84d_of_within_one, h84d_of_far⟩

/-! ### Even and odd numbers of one bits -/

/-- The distance of a byte to a codeword has the other parity than the byte, since codewords are odd. -/
theorem popcount8_xor_h84e_mod_two (b : Byte) (d : BitVec 4) :
    popcount8 (b ^^^ h84e d) % 2 = (popcount8 b + 1) % 2 := by
  have hsum := popcount8_xor_add b (h84e d)
  have hodd := popcount8_h84e_odd d
  omega

/-- An invalid byte is exactly two bits from its nearest codeword (R75 c). -/
theorem distance_of_invalid {b : Byte} (h : h84d b = 0xFF) :
    (∀ d, 2 ≤ popcount8 (b ^^^ h84e d)) ∧ ∃ d, popcount8 (b ^^^ h84e d) = 2 := by
  have hfar : ∀ d, 2 ≤ popcount8 (b ^^^ h84e d) := by
    intro d
    by_contra hnear
    have hdata : h84d b = d.setWidth 8 := h84d_of_within_one (by omega)
    exact setWidth_nibble_ne_invalid d (hdata.symm.trans h)
  obtain ⟨d, hd⟩ := exists_h84e_within_two b
  exact ⟨hfar, d, Nat.le_antisymm hd (hfar d)⟩

/-- A byte of even weight is one bit from a codeword: within two bits, and the distance is odd (R75 d). -/
theorem h84d_of_even {b : Byte} (h : popcount8 b % 2 = 0) :
    ∃ d, popcount8 (b ^^^ h84e d) = 1 ∧ h84d b = d.setWidth 8 := by
  obtain ⟨d, hd⟩ := exists_h84e_within_two b
  have hparity := popcount8_xor_h84e_mod_two b d
  have hone : popcount8 (b ^^^ h84e d) = 1 := by omega
  exact ⟨d, hone, h84d_of_within_one hone.le⟩

/-- A byte of odd weight that decodes is a codeword: within one bit, and the distance is even (R75 d). -/
theorem h84d_of_odd {b : Byte} (h : popcount8 b % 2 = 1) :
    (∃ d, b = h84e d ∧ h84d b = d.setWidth 8) ∨ h84d b = 0xFF := by
  rcases h84d_cases b with ⟨d, hd, hdata⟩ | ⟨-, hinv⟩
  · have hparity := popcount8_xor_h84e_mod_two b d
    have hzero : b ^^^ h84e d = 0 := (popcount8_eq_zero_iff _).1 (by omega)
    exact .inl ⟨d, BitVec.xor_eq_zero_iff.1 hzero, hdata⟩
  · exact .inr hinv

/-- Three wrong bits make a byte of even weight, which is one bit from another codeword (R75 e). -/
theorem h84d_of_three_wrong {b : Byte} {d : BitVec 4} (h : popcount8 (b ^^^ h84e d) = 3) :
    h84d b ≠ 0xFF ∧ h84d b ≠ d.setWidth 8 := by
  have hparity := popcount8_xor_h84e_mod_two b d
  obtain ⟨e, he, hdata⟩ := h84d_of_even (b := b) (by omega)
  rw [hdata]
  refine ⟨setWidth_nibble_ne_invalid e, fun heq => ?_⟩
  rw [setWidth_nibble_inj heq] at he
  omega

/-- Settles O22: (a) and (b) of the tables, (c) to (e) by distance and parity. -/
theorem hamming84CorrectsOneAndDetectsTwo : Obligations.Hamming84CorrectsOneAndDetectsTwo := by
  unfold Obligations.Hamming84CorrectsOneAndDetectsTwo
  exact ⟨popcount8_h84e_xor_h84e, countP_h84d_ne_invalid, fun _ => distance_of_invalid, popcount8_h84e_odd,
    fun _ => h84d_of_even, fun _ => h84d_of_odd, fun _ _ => h84d_of_three_wrong⟩

/-- Settles O23: the round trip by the law of the codes, R73 by the check of the encode table. -/
theorem hamming84DecodeOfEncodeAndItsEquations : Obligations.Hamming84DecodeOfEncodeAndItsEquations := by
  unfold Obligations.Hamming84DecodeOfEncodeAndItsEquations
  exact fun d => ⟨(h84d_h84e d).1, h84e_eq_h84Equations d⟩

/-! ### The commands -/

/-- A completion in the words of the statements. -/
theorem complete_eq_finished (flags : BitVec 8) (rsp : Word) (s : State) :
    complete flags rsp s = finished flags rsp s := rfl

theorem exec_h84enc (d : BitVec 4) (s : State) :
    exec (.h84enc d) s = .next (finished 0 ((h84e d).setWidth 32) s) := by
  rw [exec, execH84enc, complete_eq_finished]

theorem exec_h84dec (b : BitVec 8) (s : State) :
    exec (.h84dec b) s = .next (finished (if h84d b = 0xFF then 0x01 else 0) ((h84d b).setWidth 32) s) := by
  rw [exec, execH84dec, complete_eq_finished, h84decFlags, h84Invalid, flagInv8]

/-- A field that lies in the reserved bits of a row refuses the row's words when it is not 0 (R65). -/
theorem refusesReserved_of_row (i : Instr) {lo n : Nat} (hlen : lo + n ≤ 32)
    (hsub : reservedBits i &&& onesAt lo n = onesAt lo n) : refusesReserved i.opcode lo n := by
  intro w hop hfield
  have hres : w &&& reservedBits i ≠ 0 := by
    intro hzero
    rw [Ne, extractLsb'_eq_zero_iff w hlen, ← hsub, ← BitVec.and_assoc, hzero] at hfield
    exact hfield BitVec.zero_and
  rw [decode_of_opcode (i := i) hop, unreserved_of_ne hres]

/-- Settles O27: the two ends, and the reserved bits of the two rows. -/
theorem h84encAndH84decResults : Obligations.H84encAndH84decResults := by
  unfold Obligations.H84encAndH84decResults
  exact ⟨exec_h84enc, exec_h84dec, refusesReserved_of_row (.h84enc 0) (by decide) BitVec.and_self,
    refusesReserved_of_row (.h84dec 0) (by decide) BitVec.and_self⟩

end Sys2Proof.Proofs
end

section
/-! Proofs, spec/41_hamming2418.md. The code 24/18 by its linearity: the check bits make every parity test of a codeword
pass, a wrong bit adds its own syndrome to that of the word, and a word is determined by its data bits and its syndrome.
R86 and R90 follow by adding the syndromes of up to three wrong bits. -/

namespace Sys2Proof.Proofs

open Sys2Proof Sys2Proof.Machine Sys2Proof.Laws

/-! ### The layout (R82, R83) -/

/-- The position of the check bit of a test. -/
def checkPosition (t : Nat) : Nat := h24CheckPositions.getD t 0

/-- The positions that a test sums up, without that of its own check bit (R84). -/
def otherPositions (t : Nat) : List Nat := (h24ParitySets.getD t []).filter (· != checkPosition t)

theorem nodup_paritySet : ∀ t < 6, (h24ParitySets.getD t []).Nodup := by decide

theorem checkPosition_mem_paritySet : ∀ t < 6, checkPosition t ∈ h24ParitySets.getD t [] := by decide

theorem checkPosition_range : ∀ t < 6, checkPosition t - 1 < 24 := by decide

theorem checkPosition_ne : ∀ t < 6, ∀ u < 6, u ≠ t → checkPosition t - 1 ≠ checkPosition u - 1 := by decide

theorem otherPositions_ne_checkPosition : ∀ t < 6, ∀ n ∈ otherPositions t, n - 1 ≠ checkPosition t - 1 := by decide

/-- A check bit is in no set but its own and that of test F. -/
theorem paritySet_ne_checkPosition :
    ∀ t < 5, ∀ u < 6, u ≠ t → ∀ n ∈ h24ParitySets.getD t [], n - 1 ≠ checkPosition u - 1 := by decide

theorem dataPositions_ne_checkPosition : ∀ t < 6, ∀ n ∈ h24DataPositions, n - 1 ≠ checkPosition t - 1 := by decide

theorem otherPositions_subset_dataPositions : ∀ t < 5, ∀ n ∈ otherPositions t, n ∈ h24DataPositions := by decide

theorem otherPositions_five : ∀ n ∈ otherPositions 5, n ∈ h24DataPositions ∨ ∃ t < 5, n = checkPosition t := by decide

/-- Every bit is a data bit or a check bit. -/
theorem bit_of_position : ∀ i < 24, (∃ n ∈ h24DataPositions, i = n - 1) ∨ ∃ t < 6, i = checkPosition t - 1 := by decide

theorem nodup_dataBits : (h24DataPositions.map (· - 1)).Nodup := by decide

theorem dataPositions_range : ∀ n ∈ h24DataPositions, n - 1 < 24 := by decide

/-! ### Reading bits -/

/-- A word with one bit set, the form of a wrong bit. -/
theorem getLsbD_one_shiftLeft {w i : Nat} (hi : i < w) (j : Nat) : (1#w <<< i).getLsbD j = decide (i = j) := by
  rw [← BitVec.twoPow_eq, BitVec.getLsbD_twoPow]
  simp [hi]

theorem getLsbD_bitAt_of_ne {n i : Nat} (b : Bool) (h : i ≠ n - 1) : (bitAt n b).getLsbD i = false := by
  unfold bitAt
  cases b
  · exact BitVec.getLsbD_zero
  · rw [if_pos rfl, ← BitVec.twoPow_eq, BitVec.getLsbD_twoPow, decide_eq_false h.symm, Bool.and_false]

theorem getLsbD_bitAt_self {n : Nat} (b : Bool) (h : n - 1 < 24) : (bitAt n b).getLsbD (n - 1) = b := by
  unfold bitAt
  cases b
  · exact BitVec.getLsbD_zero
  · simp [getLsbD_one_shiftLeft h]

/-- A bit whose position is not in the list is not set by placing bits at the list's positions. -/
theorem getLsbD_placeFrom_of_ne (v : BitVec 18) {l : List Nat} {m : Nat} (h : ∀ n ∈ l, n - 1 ≠ m) (i : Nat) :
    (placeFrom v i l).getLsbD m = false := by
  induction l generalizing i with
  | nil => exact BitVec.getLsbD_zero
  | cons n rest ih =>
    obtain ⟨hn, hrest⟩ := List.forall_mem_cons.1 h
    rw [placeFrom, BitVec.getLsbD_or, getLsbD_bitAt_of_ne _ hn.symm, ih hrest, Bool.false_or]

/-- The bit at the `k`-th position of the list is bit `i + k` of the value. -/
theorem getLsbD_placeFrom (v : BitVec 18) {l : List Nat} (hnodup : (l.map (· - 1)).Nodup)
    (hrange : ∀ n ∈ l, n - 1 < 24) (i : Nat) {k : Nat} (hk : k < l.length) :
    (placeFrom v i l).getLsbD (l[k] - 1) = v.getLsbD (i + k) := by
  induction l generalizing i k with
  | nil => exact absurd hk (Nat.not_lt_zero k)
  | cons n rest ih =>
    obtain ⟨hn, hrest⟩ := List.forall_mem_cons.1 hrange
    obtain ⟨hfresh, hnodup⟩ := List.nodup_cons.1 hnodup
    have hne : ∀ m ∈ rest, m - 1 ≠ n - 1 := fun m hm heq => hfresh (List.mem_map.2 ⟨m, hm, heq⟩)
    rw [placeFrom, BitVec.getLsbD_or]
    cases k with
    | zero => simp [getLsbD_bitAt_self _ hn, getLsbD_placeFrom_of_ne v hne]
    | succ k =>
      have hk : k < rest.length := by simpa using hk
      rw [List.getElem_cons_succ, getLsbD_bitAt_of_ne _ (hne _ (List.getElem_mem hk)), ih hnodup hrest (i + 1) hk,
        Bool.false_or, Nat.add_assoc, Nat.add_comm 1 k]

/-- Gathering from bit `i` up sets no bit below `i`. -/
theorem getLsbD_gatherFrom_of_lt (c : BitVec 24) (l : List Nat) {i j : Nat} (h : j < i) :
    (gatherFrom c i l).getLsbD j = false := by
  induction l generalizing i with
  | nil => exact BitVec.getLsbD_zero
  | cons n rest ih =>
    rw [gatherFrom, BitVec.getLsbD_or, ih (by omega), Bool.or_false]
    split
    · simp [h]
    · exact BitVec.getLsbD_zero

/-- Bit `i + k` of the gathered value is the bit at the `k`-th position of the list. -/
theorem getLsbD_gatherFrom (c : BitVec 24) {l : List Nat} {i k : Nat} (hk : k < l.length) (hi : i + k < 18) :
    (gatherFrom c i l).getLsbD (i + k) = c.getLsbD (l[k] - 1) := by
  induction l generalizing i k with
  | nil => exact absurd hk (Nat.not_lt_zero k)
  | cons n rest ih =>
    rw [gatherFrom, BitVec.getLsbD_or]
    cases k with
    | zero =>
      rw [getLsbD_gatherFrom_of_lt c rest (by omega), Bool.or_false]
      have hi : i < 18 := hi
      cases hbit : c.getLsbD (n - 1) <;> simp [hbit, getLsbD_one_shiftLeft hi]
    | succ k =>
      have hhead : (if c.getLsbD (n - 1) then 1#18 <<< i else 0).getLsbD (i + (k + 1)) = false := by
        split
        · simp [getLsbD_one_shiftLeft (show i < 18 by omega)]
        · exact BitVec.getLsbD_zero
      have hrest := ih (i := i + 1) (k := k) (by simpa using hk) (by omega)
      rw [hhead, Bool.false_or, List.getElem_cons_succ, ← hrest, Nat.add_assoc, Nat.add_comm 1 k]

/-- Bit `k` of the recombined data is the bit at the position of D(k+1) (R88). -/
theorem getLsbD_h24Recombine (c : BitVec 24) {k : Nat} (hk : k < h24DataPositions.length) :
    (h24Recombine c).getLsbD k = c.getLsbD (h24DataPositions[k] - 1) := by
  have hbit := getLsbD_gatherFrom c (i := 0) hk (by rw [Nat.zero_add]; exact hk)
  rwa [Nat.zero_add] at hbit

/-- Words with the same recombined data have the same data bits. -/
theorem dataBit_eq_of_h24Recombine_eq {c d : BitVec 24} (h : h24Recombine c = h24Recombine d) :
    ∀ n ∈ h24DataPositions, c.getLsbD (n - 1) = d.getLsbD (n - 1) := by
  intro n hn
  obtain ⟨k, hk, rfl⟩ := List.getElem_of_mem hn
  rw [← getLsbD_h24Recombine c hk, h, getLsbD_h24Recombine d hk]

/-! ### Parity sums -/

/-- A parity sum reads the bits at its positions only. -/
theorem xorAt_congr {c d : BitVec 24} {l : List Nat} (h : ∀ n ∈ l, c.getLsbD (n - 1) = d.getLsbD (n - 1)) :
    xorAt c l = xorAt d l := by
  induction l with
  | nil => rfl
  | cons n rest ih =>
    obtain ⟨hn, hrest⟩ := List.forall_mem_cons.1 h
    rw [xorAt, xorAt, hn, ih hrest]

/-- A position taken out of a parity sum. -/
theorem xorAt_eq_xor_filter (c : BitVec 24) {l : List Nat} {n : Nat} (hnodup : l.Nodup) (hn : n ∈ l) :
    xorAt c l = (c.getLsbD (n - 1) ^^ xorAt c (l.filter (· != n))) := by
  induction l with
  | nil => exact absurd hn List.not_mem_nil
  | cons m rest ih =>
    obtain ⟨hfresh, hnodup⟩ := List.nodup_cons.1 hnodup
    by_cases hm : m = n
    · subst hm
      have hkeep : rest.filter (· != m) = rest :=
        List.filter_eq_self.2 fun x hx => bne_iff_ne.2 fun heq => hfresh (heq ▸ hx)
      simp [xorAt, hkeep]
    · have hn : n ∈ rest := (List.mem_cons.1 hn).resolve_left (Ne.symm hm)
      rw [List.filter_cons_of_pos (by simpa using hm), xorAt, xorAt, ih hnodup hn, Bool.xor_left_comm]

/-- A test passes exactly when its check bit makes the number of ones odd (R84, R85). -/
theorem parityFails_eq (c : BitVec 24) {t : Nat} (ht : t < 6) :
    parityFails c t = (true ^^ (c.getLsbD (checkPosition t - 1) ^^ xorAt c (otherPositions t))) := by
  rw [parityFails, xorAt_eq_xor_filter c (nodup_paritySet t ht) (checkPosition_mem_paritySet t ht), otherPositions]

/-! ### The codewords -/

theorem checkBit_eq (c : BitVec 24) (t : Nat) :
    checkBit c t = bitAt (checkPosition t) (true ^^ xorAt c (otherPositions t)) := rfl

/-- A check bit is put at its own position only. -/
theorem getLsbD_or_checkBit_of_ne (c d : BitVec 24) {t i : Nat} (h : i ≠ checkPosition t - 1) :
    (c ||| checkBit d t).getLsbD i = c.getLsbD i := by
  rw [checkBit_eq, BitVec.getLsbD_or, getLsbD_bitAt_of_ne _ h, Bool.or_false]

/-- The tests A to E do not sum up each other's check bits, so that their order in R84 is free. -/
theorem checkBit_or_checkBit (c d : BitVec 24) {t u : Nat} (ht : t < 5) (hu : u < 6) (hne : u ≠ t) :
    checkBit (c ||| checkBit d u) t = checkBit c t := by
  have hsame : xorAt (c ||| checkBit d u) (otherPositions t) = xorAt c (otherPositions t) :=
    xorAt_congr fun n hn =>
      getLsbD_or_checkBit_of_ne c d (paritySet_ne_checkPosition t ht u hu hne n (List.mem_of_mem_filter hn))
  rw [checkBit_eq _ t, hsame, ← checkBit_eq]

/-- The word with the check bit of test `t` put in: one step of R84. -/
def withCheckBit (c : BitVec 24) (t : Nat) : BitVec 24 := c ||| checkBit c t

/-- R84 as six steps, each on the word that the step before it leaves. -/
theorem h24enc_eq_foldl (v : BitVec 18) : h24enc v = [0, 1, 2, 3, 4, 5].foldl withCheckBit (h24Place v) := by
  simp [h24enc, withCheckBit, checkBit_or_checkBit]

theorem getLsbD_withCheckBit_of_ne (c : BitVec 24) {t i : Nat} (h : i ≠ checkPosition t - 1) :
    (withCheckBit c t).getLsbD i = c.getLsbD i := getLsbD_or_checkBit_of_ne c c h

/-- The check bits of the other tests are as before the step. -/
theorem getLsbD_withCheckBit_checkPosition (c : BitVec 24) {t u : Nat} (ht : t < 6) (hu : u < 6) (hne : u ≠ t) :
    (withCheckBit c u).getLsbD (checkPosition t - 1) = c.getLsbD (checkPosition t - 1) :=
  getLsbD_withCheckBit_of_ne c (checkPosition_ne t ht u hu hne)

/-- A check bit makes its own test pass. -/
theorem parityFails_withCheckBit_self {c : BitVec 24} {t : Nat} (ht : t < 6)
    (hclear : c.getLsbD (checkPosition t - 1) = false) : parityFails (withCheckBit c t) t = false := by
  have hself : (withCheckBit c t).getLsbD (checkPosition t - 1) = (true ^^ xorAt c (otherPositions t)) := by
    rw [withCheckBit, checkBit_eq, BitVec.getLsbD_or, hclear, getLsbD_bitAt_self _ (checkPosition_range t ht),
      Bool.false_or]
  have hothers : xorAt (withCheckBit c t) (otherPositions t) = xorAt c (otherPositions t) :=
    xorAt_congr fun n hn => getLsbD_withCheckBit_of_ne c (otherPositions_ne_checkPosition t ht n hn)
  simp [parityFails_eq _ ht, hself, hothers]

/-- A check bit does not change a test of A to E that is not its own. -/
theorem parityFails_withCheckBit_of_ne (c : BitVec 24) {t u : Nat} (ht : t < 5) (hu : u < 6) (hne : u ≠ t) :
    parityFails (withCheckBit c u) t = parityFails c t := by
  rw [parityFails, parityFails, xorAt_congr fun n hn =>
    getLsbD_withCheckBit_of_ne c (paritySet_ne_checkPosition t ht u hu hne n hn)]

/-- Placing the data leaves every check bit 0 (R84, first line). -/
theorem getLsbD_h24Place_checkPosition (v : BitVec 18) {t : Nat} (ht : t < 6) :
    (h24Place v).getLsbD (checkPosition t - 1) = false :=
  getLsbD_placeFrom_of_ne v (dataPositions_ne_checkPosition t ht) 0

/-- A codeword passes every test. -/
theorem parityFails_h24enc (v : BitVec 18) {t : Nat} (ht : t < 6) : parityFails (h24enc v) t = false := by
  rw [h24enc_eq_foldl]
  interval_cases t <;>
    simp [parityFails_withCheckBit_of_ne, parityFails_withCheckBit_self, getLsbD_withCheckBit_checkPosition,
      getLsbD_h24Place_checkPosition]

/-- The data bits of a codeword are those that R84 places. -/
theorem getLsbD_h24enc_dataPosition (v : BitVec 18) {k : Nat} (hk : k < h24DataPositions.length) :
    (h24enc v).getLsbD (h24DataPositions[k] - 1) = v.getLsbD k := by
  have hne := fun t ht => dataPositions_ne_checkPosition t ht _ (List.getElem_mem hk)
  have hplace := getLsbD_placeFrom v nodup_dataBits dataPositions_range 0 hk
  rw [Nat.zero_add] at hplace
  rw [h24enc_eq_foldl, ← hplace]
  simp [getLsbD_withCheckBit_of_ne, hne, h24Place]

theorem h24Recombine_h24enc (v : BitVec 18) : h24Recombine (h24enc v) = v :=
  BitVec.eq_of_getLsbD_eq fun k hk => by rw [getLsbD_h24Recombine _ hk, getLsbD_h24enc_dataPosition v hk]

/-! ### The syndrome -/

/-- Bit t of the syndrome is the failure of test t (R86). -/
theorem getLsbD_h24Syndrome (c : BitVec 24) {t : Nat} (ht : t < 6) : (h24Syndrome c).getLsbD t = parityFails c t := by
  rw [h24Syndrome, BitVec.getLsbD_ofBoolListLE]
  interval_cases t <;> rfl

theorem h24Syndrome_h24enc (v : BitVec 18) : h24Syndrome (h24enc v) = 0 := by
  refine BitVec.eq_of_getLsbD_eq fun t ht => ?_
  rw [getLsbD_h24Syndrome _ ht, parityFails_h24enc v ht]
  exact BitVec.getLsbD_zero.symm

/-- A word is determined by its data bits and its syndrome: each test gives its check bit from the other bits it sums
up, P6 last. -/
theorem eq_of_h24Recombine_of_h24Syndrome {c d : BitVec 24} (hdata : h24Recombine c = h24Recombine d)
    (hsyn : h24Syndrome c = h24Syndrome d) : c = d := by
  have hdata := dataBit_eq_of_h24Recombine_eq hdata
  have hcheck {t : Nat} (ht : t < 6) (hothers : ∀ n ∈ otherPositions t, c.getLsbD (n - 1) = d.getLsbD (n - 1)) :
      c.getLsbD (checkPosition t - 1) = d.getLsbD (checkPosition t - 1) := by
    have htest : parityFails c t = parityFails d t := by
      rw [← getLsbD_h24Syndrome c ht, hsyn, getLsbD_h24Syndrome d ht]
    rw [parityFails_eq c ht, parityFails_eq d ht, xorAt_congr hothers] at htest
    simpa using htest
  have hfirst {t : Nat} (ht : t < 5) : c.getLsbD (checkPosition t - 1) = d.getLsbD (checkPosition t - 1) :=
    hcheck (by omega) fun n hn => hdata n (otherPositions_subset_dataPositions t ht n hn)
  have hlast : c.getLsbD (checkPosition 5 - 1) = d.getLsbD (checkPosition 5 - 1) := by
    refine hcheck (by decide) fun n hn => ?_
    rcases otherPositions_five n hn with hn | ⟨t, ht, rfl⟩
    · exact hdata n hn
    · exact hfirst ht
  refine BitVec.eq_of_getLsbD_eq fun i hi => ?_
  rcases bit_of_position i hi with ⟨n, hn, rfl⟩ | ⟨t, ht, rfl⟩
  · exact hdata n hn
  · obtain ht | rfl : t < 5 ∨ t = 5 := by omega
    · exact hfirst ht
    · exact hlast

/-- What a wrong bit adds to the syndrome of a word: test F fails, and A to E spell the bit's position, or 0 for
position 24 (R86). -/
def wrongBitSyndrome (i : Nat) : BitVec 6 := BitVec.ofNat 6 (32 + (i + 1) % 24)

theorem h24Syndrome_one_shiftLeft : ∀ i < 24, ~~~ h24Syndrome (1#24 <<< i) = wrongBitSyndrome i := by decide +kernel

theorem parityFails_xor (c d : BitVec 24) (t : Nat) :
    parityFails (c ^^^ d) t = (parityFails c t ^^ !parityFails d t) := by
  rw [parityFails, parityFails, parityFails, xorAt_xor]
  simp

theorem h24Syndrome_xor (c d : BitVec 24) : h24Syndrome (c ^^^ d) = h24Syndrome c ^^^ ~~~ h24Syndrome d :=
  BitVec.eq_of_getLsbD_eq fun t ht => by
    rw [getLsbD_h24Syndrome _ ht, parityFails_xor, BitVec.getLsbD_xor, BitVec.getLsbD_not, getLsbD_h24Syndrome _ ht,
      getLsbD_h24Syndrome _ ht, decide_eq_true ht, Bool.true_and]

theorem h24Syndrome_wrongBit (c : BitVec 24) {i : Nat} (hi : i < 24) :
    h24Syndrome (c ^^^ 1#24 <<< i) = h24Syndrome c ^^^ wrongBitSyndrome i := by
  rw [h24Syndrome_xor, h24Syndrome_one_shiftLeft i hi]

theorem toNat_wrongBitSyndrome (i : Nat) : (wrongBitSyndrome i).toNat = 32 + (i + 1) % 24 := by
  rw [wrongBitSyndrome, BitVec.toNat_ofNat]
  omega

/-- Test F fails for every wrong bit. -/
theorem msb_wrongBitSyndrome (i : Nat) : (wrongBitSyndrome i).msb = true := by
  rw [BitVec.msb_eq_decide, toNat_wrongBitSyndrome]
  simp

theorem wrongBitSyndrome_inj {i j : Nat} (hi : i < 24) (hj : j < 24) (h : wrongBitSyndrome i = wrongBitSyndrome j) :
    i = j := by
  have hnat := congrArg BitVec.toNat h
  rw [toNat_wrongBitSyndrome, toNat_wrongBitSyndrome] at hnat
  omega

/-- The syndromes 32 to 55 are those of the single wrong bits. -/
theorem exists_wrongBitSyndrome {syn : BitVec 6} (hlo : 32 ≤ syn.toNat) (hhi : syn.toNat < 56) :
    ∃ i < 24, syn = wrongBitSyndrome i := by
  refine ⟨(syn.toNat - 9) % 24, Nat.mod_lt _ (by decide), BitVec.eq_of_toNat_eq ?_⟩
  rw [toNat_wrongBitSyndrome]
  omega

/-! ### Codewords with wrong bits -/

theorem h24Syndrome_h24enc_one (v : BitVec 18) {i : Nat} (hi : i < 24) :
    h24Syndrome (h24enc v ^^^ 1#24 <<< i) = wrongBitSyndrome i := by
  rw [h24Syndrome_wrongBit _ hi, h24Syndrome_h24enc]
  exact BitVec.zero_xor

/-- Two wrong bits cancel in test F and not in all of A to E. -/
theorem h24Syndrome_h24enc_two (v : BitVec 18) {i j : Nat} (hi : i < 24) (hj : j < 24) (hne : i ≠ j) :
    1 ≤ (h24Syndrome (h24enc v ^^^ 1#24 <<< i ^^^ 1#24 <<< j)).toNat ∧
      (h24Syndrome (h24enc v ^^^ 1#24 <<< i ^^^ 1#24 <<< j)).toNat ≤ 31 := by
  rw [h24Syndrome_wrongBit _ hj, h24Syndrome_h24enc_one v hi]
  have hnonzero : wrongBitSyndrome i ^^^ wrongBitSyndrome j ≠ 0 :=
    fun h => hne (wrongBitSyndrome_inj hi hj (BitVec.xor_eq_zero_iff.1 h))
  have hmsb : (wrongBitSyndrome i ^^^ wrongBitSyndrome j).msb = false := by
    rw [BitVec.msb_xor, msb_wrongBitSyndrome, msb_wrongBitSyndrome, Bool.xor_self]
  exact ⟨Nat.pos_of_ne_zero fun h => hnonzero (BitVec.eq_of_toNat_eq h),
    Nat.le_of_lt_succ (BitVec.toNat_lt_of_msb_false hmsb)⟩

/-- Settles O24: the codewords pass every test, and the syndromes of the wrong bits add up. -/
theorem hamming2418SyndromeNamesTheWrongBit : Obligations.Hamming2418SyndromeNamesTheWrongBit := by
  unfold Obligations.Hamming2418SyndromeNamesTheWrongBit
  refine ⟨fun c t => getLsbD_h24Syndrome c, fun v => ⟨h24Syndrome_h24enc v, ?position, ?last, ?pair⟩⟩
  case position =>
    intro n hlo hhi
    rw [h24Syndrome_h24enc_one v (by omega), toNat_wrongBitSyndrome]
    omega
  case last => rw [h24Syndrome_h24enc_one v (by decide), toNat_wrongBitSyndrome]
  case pair => exact fun i hi j hj => h24Syndrome_h24enc_two v hi hj

/-! ### Decoding -/

/-- No test fails: the data as received. -/
theorem h24dec_of_zero {c : BitVec 24} (h : h24Syndrome c = 0) : h24dec c = (h24Recombine c).setWidth 32 := by
  simp [h24dec, h, h24Cor]

/-- An even number of wrong bits, or a position that no bit has: no single wrong bit explains the syndrome (R87). -/
theorem h24Cor_of_uncorrectable {syn : BitVec 6} (h : (1 ≤ syn.toNat ∧ syn.toNat ≤ 31) ∨ 56 ≤ syn.toNat) :
    h24Cor syn = (0, .uncorrectable) := by
  unfold h24Cor
  rcases h with ⟨hlo, hhi⟩ | h
  · rw [if_neg (by omega), if_pos (by omega)]
  · rw [if_neg (by omega), if_neg (by omega), if_neg (by omega)]

theorem h24dec_of_uncorrectable {c : BitVec 24}
    (h : (1 ≤ (h24Syndrome c).toNat ∧ (h24Syndrome c).toNat ≤ 31) ∨ 56 ≤ (h24Syndrome c).toNat) :
    h24dec c = 0x80000000 := by
  rw [h24dec, h24Cor_of_uncorrectable h]
  rfl

/-- The correction table flips the data bit at the position that the syndrome names (R87). -/
theorem h24Cor_wrongBitSyndrome : ∀ i < 24, h24Cor (wrongBitSyndrome i) = (h24Recombine (1#24 <<< i), .corrected) := by
  decide +kernel

theorem h24Recombine_xor (c d : BitVec 24) : h24Recombine (c ^^^ d) = h24Recombine c ^^^ h24Recombine d :=
  BitVec.eq_of_getLsbD_eq fun k hk => by
    rw [BitVec.getLsbD_xor, getLsbD_h24Recombine _ hk, getLsbD_h24Recombine _ hk, getLsbD_h24Recombine _ hk,
      BitVec.getLsbD_xor]

/-- A word with the syndrome of a wrong bit decodes to the data of the word with that bit flipped. -/
theorem h24dec_of_wrongBitSyndrome {c : BitVec 24} {i : Nat} (hi : i < 24) (h : h24Syndrome c = wrongBitSyndrome i) :
    h24dec c = 0x40000000 ||| (h24Recombine (c ^^^ 1#24 <<< i)).setWidth 32 := by
  rw [h24dec, h, h24Cor_wrongBitSyndrome i hi, h24Recombine_xor]
  rfl

theorem h24dec_h24enc (v : BitVec 18) : h24dec (h24enc v) = v.setWidth 32 := by
  rw [h24dec_of_zero (h24Syndrome_h24enc v), h24Recombine_h24enc]

theorem h24dec_h24enc_one (v : BitVec 18) {i : Nat} (hi : i < 24) :
    h24dec (h24enc v ^^^ 1#24 <<< i) = 0x40000000 ||| v.setWidth 32 := by
  rw [h24dec_of_wrongBitSyndrome hi (h24Syndrome_h24enc_one v hi), BitVec.xor_assoc, BitVec.xor_self,
    BitVec.xor_zero, h24Recombine_h24enc]

/-- Three different wrong bits are not undone by flipping one: the first two would both be the flipped one. -/
theorem three_wrongBits_ne_one {i j k : Nat} (hi : i < 24) (hj : j < 24) (hk : k < 24) (hij : i ≠ j)
    (hik : i ≠ k) (hjk : j ≠ k) {m : Nat} (hm : m < 24) : 1#24 <<< i ^^^ 1#24 <<< j ^^^ 1#24 <<< k ≠ 1#24 <<< m := by
  intro h
  have hbit (x : Nat) : ((decide (i = x) ^^ decide (j = x)) ^^ decide (k = x)) = decide (m = x) := by
    rw [← getLsbD_one_shiftLeft hi, ← getLsbD_one_shiftLeft hj, ← getLsbD_one_shiftLeft hk, ← getLsbD_one_shiftLeft hm,
      ← BitVec.getLsbD_xor, ← BitVec.getLsbD_xor, h]
  have hmi : m = i := by simpa [hij.symm, hik.symm] using hbit i
  have hmj : m = j := by simpa [hij, hjk.symm] using hbit j
  exact hij (hmi.symm.trans hmj)

/-- A word that is corrected to the data of a codeword differs from it in the corrected bit only. -/
theorem eq_one_shiftLeft_of_corrected {v : BitVec 18} {e : BitVec 24} {m : Nat} (hm : m < 24)
    (hsyn : h24Syndrome (h24enc v ^^^ e) = wrongBitSyndrome m)
    (hdata : h24Recombine (h24enc v ^^^ e ^^^ 1#24 <<< m) = v) : e = 1#24 <<< m := by
  have hsent : h24enc v ^^^ e ^^^ 1#24 <<< m = h24enc v := by
    refine eq_of_h24Recombine_of_h24Syndrome (hdata.trans (h24Recombine_h24enc v).symm) ?_
    rw [h24Syndrome_wrongBit _ hm, hsyn, h24Syndrome_h24enc]
    exact BitVec.xor_self
  rw [BitVec.xor_assoc] at hsent
  exact BitVec.xor_eq_zero_iff.1 ((BitVec.xor_right_inj (h24enc v)).1 (hsent.trans BitVec.xor_zero.symm))

/-- Three wrong bits make test F fail. -/
theorem h24Syndrome_h24enc_three (v : BitVec 18) {i j k : Nat} (hi : i < 24) (hj : j < 24) (hk : k < 24) :
    32 ≤ (h24Syndrome (h24enc v ^^^ 1#24 <<< i ^^^ 1#24 <<< j ^^^ 1#24 <<< k)).toNat := by
  rw [h24Syndrome_wrongBit _ hk, h24Syndrome_wrongBit _ hj, h24Syndrome_h24enc_one v hi]
  have hmsb : (wrongBitSyndrome i ^^^ wrongBitSyndrome j ^^^ wrongBitSyndrome k).msb = true := by
    simp [BitVec.msb_xor, msb_wrongBitSyndrome]
  exact BitVec.le_toNat_of_msb_true hmsb

/-- Three wrong bits with the syndrome of one: the bit that the syndrome names is flipped, and the data answered as
corrected are others (R90 d). -/
theorem h24dec_h24enc_three (v : BitVec 18) {i j k : Nat} (hi : i < 24) (hj : j < 24) (hk : k < 24) (hij : i ≠ j)
    (hik : i ≠ k) (hjk : j ≠ k)
    (h : (h24Syndrome (h24enc v ^^^ 1#24 <<< i ^^^ 1#24 <<< j ^^^ 1#24 <<< k)).toNat < 56) :
    ∃ u : BitVec 18, u ≠ v ∧
      h24dec (h24enc v ^^^ 1#24 <<< i ^^^ 1#24 <<< j ^^^ 1#24 <<< k) = 0x40000000 ||| u.setWidth 32 := by
  obtain ⟨m, hm, hname⟩ := exists_wrongBitSyndrome (h24Syndrome_h24enc_three v hi hj hk) h
  refine ⟨_, fun hdata => ?_, h24dec_of_wrongBitSyndrome hm hname⟩
  have hassoc : h24enc v ^^^ 1#24 <<< i ^^^ 1#24 <<< j ^^^ 1#24 <<< k =
      h24enc v ^^^ (1#24 <<< i ^^^ 1#24 <<< j ^^^ 1#24 <<< k) := by simp only [BitVec.xor_assoc]
  rw [hassoc] at hname hdata
  exact three_wrongBits_ne_one hi hj hk hij hik hjk hm (eq_one_shiftLeft_of_corrected hm hname hdata)

/-- Settles O25: (a) to (d) by the syndromes of up to three wrong bits. -/
theorem hamming2418CorrectsOneAndDetectsTwo : Obligations.Hamming2418CorrectsOneAndDetectsTwo := by
  unfold Obligations.Hamming2418CorrectsOneAndDetectsTwo
  refine fun v => ⟨h24dec_h24enc v, fun i => h24dec_h24enc_one v, ?pair, ?three⟩
  case pair => exact fun i hi j hj hne => h24dec_of_uncorrectable (.inl (h24Syndrome_h24enc_two v hi hj hne))
  case three =>
    intro i hi j hj k hk hij hik hjk c
    split_ifs with h
    · exact h24dec_of_uncorrectable (.inr h)
    · exact h24dec_h24enc_three v hi hj hk hij hik hjk (Nat.lt_of_not_le h)

/-! ### The commands -/

theorem exec_h24enc (v : BitVec 18) (s : State) :
    exec (.h24enc v) s = .next (finished 0 ((h24enc v).setWidth 32) s) := by
  rw [exec, execH24enc, complete_eq_finished]

theorem exec_h24dec (c : BitVec 24) (s : State) :
    exec (.h24dec c) s = .next (finished (h24decFlags (h24dec c)) (h24dec c) s) := by
  rw [exec, execH24dec, complete_eq_finished]

theorem getLsbD_flagCor24 (i : Nat) : flagCor24.getLsbD i = decide (1 = i) :=
  getLsbD_one_shiftLeft (w := 8) (i := 1) (by decide) i

theorem getLsbD_flagUnc24 (i : Nat) : flagUnc24.getLsbD i = decide (2 = i) :=
  getLsbD_one_shiftLeft (w := 8) (i := 2) (by decide) i

/-- COR24 is bit 30 of the result word, UNC24 bit 31, every other flag 0 (R92). -/
theorem getLsbD_h24decFlags (r : Word) (i : Nat) :
    (h24decFlags r).getLsbD i = ((i = 1 ∧ r.getLsbD 30) ∨ (i = 2 ∧ r.getLsbD 31) : Bool) := by
  rw [h24decFlags, BitVec.getLsbD_or]
  cases r.getLsbD 30 <;> cases r.getLsbD 31 <;> simp [getLsbD_flagCor24, getLsbD_flagUnc24, eq_comm]

/-- Settles O28: the two ends, the flags bit by bit, and the reserved bits of H24ENC's row. -/
theorem h24encAndH24decResults : Obligations.H24encAndH24decResults := by
  unfold Obligations.H24encAndH24decResults
  exact ⟨exec_h24enc, fun c s => ⟨_, exec_h24dec c s, getLsbD_h24decFlags (h24dec c)⟩,
    refusesReserved_of_row (.h24enc 0) (by decide) BitVec.and_self⟩

end Sys2Proof.Proofs
end

section
/-! Proofs, spec/42_parity_bitrev.md. The exclusive or of a byte's bits says whether the number of its ones is odd; the
parity bit, which no data bit overlaps, adds a one exactly when that of the data bits is even. -/

namespace Sys2Proof.Proofs

open Sys2Proof Sys2Proof.Machine Sys2Proof.Laws

/-! ### Odd parity (R97, R98) -/

theorem foldr_xor_eq_countP_odd (p : Nat → Bool) (l : List Nat) :
    l.foldr (fun i acc => p i ^^ acc) false = decide (l.countP p % 2 = 1) := by
  induction l with
  | nil => rfl
  | cons i rest ih =>
    rw [List.foldr_cons, ih, List.countP_cons]
    rcases Nat.mod_two_eq_zero_or_one (rest.countP p) with heven | hodd
    · cases p i <;> simp [Nat.add_mod, heven]
    · cases p i <;> simp [Nat.add_mod, hodd]

theorem xorBits_eq (v : Byte) : xorBits v = decide (popcount8 v % 2 = 1) := by
  have hfold : xorBits v = (List.range 8).foldr (fun i acc => v.getLsbD i ^^ acc) false := by
    simp [xorBits, List.range_succ]
  rw [hfold, foldr_xor_eq_countP_odd, popcount8]

/-- Bytes without a common one bit. -/
theorem or_eq_xor_of_and_eq_zero {a b : Byte} (h : a &&& b = 0) : a ||| b = a ^^^ b := by
  refine BitVec.eq_of_getLsbD_eq fun i _ => ?_
  have hbit : (a.getLsbD i && b.getLsbD i) = false := by
    rw [← BitVec.getLsbD_and, h]
    exact BitVec.getLsbD_zero
  rw [BitVec.getLsbD_or, BitVec.getLsbD_xor]
  revert hbit
  cases a.getLsbD i <;> cases b.getLsbD i <;> decide

theorem popcount8_or_of_and_eq_zero {a b : Byte} (h : a &&& b = 0) :
    popcount8 (a ||| b) = popcount8 a + popcount8 b := by
  have hsum := popcount8_xor_add a b
  rwa [h, (popcount8_eq_zero_iff 0).2 rfl, ← or_eq_xor_of_and_eq_zero h] at hsum

theorem dataBits_and_parityMask (x : Byte) : x &&& dataMask &&& parityMask = 0 := by
  have hmask : dataMask &&& parityMask = 0 := by decide
  rw [BitVec.and_assoc, hmask]
  exact BitVec.and_zero

theorem popcount8_parityMask : popcount8 parityMask = 1 := by decide

/-- The bit that R97 adds makes the number of ones odd. -/
theorem popcount8_oddParity_odd (x : Byte) : popcount8 (oddParity x) % 2 = 1 := by
  rw [oddParity, xorBits_eq]
  by_cases hodd : popcount8 (x &&& dataMask) % 2 = 1
  · rw [decide_eq_true hodd, if_pos rfl]
    simpa using hodd
  · rw [decide_eq_false hodd, if_neg Bool.false_ne_true, popcount8_or_of_and_eq_zero (dataBits_and_parityMask x),
      popcount8_parityMask]
    omega

/-- The data bits pass the code: it sets bit 7 only, and dropping bit 7 gives them back. -/
theorem oddParity_and_dataBits (x : Byte) : oddParity x &&& 0x7F = x &&& 0x7F := by
  rw [← stripParity_eq, stripParity_oddParity]

/-- Bit 7 of the input is ignored. -/
theorem oddParity_of_dataBits (x : Byte) : oddParity (x &&& 0x7F) = oddParity x := by
  have hmask : x &&& 0x7F &&& dataMask = x &&& dataMask := by
    rw [BitVec.and_assoc]
    rfl
  rw [oddParity, oddParity, hmask]

/-! ### Bit reversal (R101) -/

theorem getLsbD_reverseBits (x : Byte) {i : Nat} (hi : i < 8) : (reverseBits x).getLsbD i = x.getLsbD (7 - i) := by
  rw [reverseBits, BitVec.getLsbD_ofBoolListLE]
  interval_cases i <;> rfl

/-- Settles O26: the parity code by counting ones and by its mask, reversal bit by bit and by the law of the codes. -/
theorem parityAndReversalOfAByte : Obligations.ParityAndReversalOfAByte := by
  unfold Obligations.ParityAndReversalOfAByte
  exact fun x => ⟨popcount8_oddParity_odd x, oddParity_and_dataBits x, (oddParity_of_dataBits x).symm, stripParity_eq x,
    fun i => getLsbD_reverseBits x, reverseBits_reverseBits x⟩

/-! ### The commands -/

theorem exec_parenc (d : BitVec 7) (s : State) :
    exec (.parenc d) s = .next (finished 0 ((oddParity (d.setWidth 8)).setWidth 32) s) := by
  rw [exec, execParenc, complete_eq_finished]

theorem exec_pardec (b : BitVec 8) (s : State) :
    exec (.pardec b) s = .next (finished 0 ((b &&& 0x7F).setWidth 32) s) := by
  rw [exec, execPardec, complete_eq_finished, stripParity_eq]

theorem exec_bitrev (b : BitVec 8) (s : State) :
    exec (.bitrev b) s = .next (finished 0 ((reverseBits b).setWidth 32) s) := by
  rw [exec, execBitrev, complete_eq_finished]

/-- Settles O29: the three ends, and the reserved bits of the three rows. -/
theorem parencPardecAndBitrevResults : Obligations.ParencPardecAndBitrevResults := by
  unfold Obligations.ParencPardecAndBitrevResults
  exact ⟨exec_parenc, exec_pardec, exec_bitrev, refusesReserved_of_row (.parenc 0) (by decide) BitVec.and_self,
    refusesReserved_of_row (.pardec 0) (by decide) BitVec.and_self,
    refusesReserved_of_row (.bitrev 0) (by decide) BitVec.and_self⟩

end Sys2Proof.Proofs
end

section
/-! Proofs, spec/43_regs_buffer.md. The register commands by the register that a number names and its write mask, the
packet-buffer commands by the index check and the laws of byte memory. -/

namespace Sys2Proof.Proofs

open Sys2Proof Sys2Proof.Machine Sys2Proof.Laws

/-! ### NOP, WCLR and ACCSET (R104, R108, R109) -/

theorem exec_nop (s : State) : exec .nop s = .next (finished 0 0 s) := by
  rw [exec, execNop, complete_eq_finished]

theorem exec_wclr (s : State) : exec .wclr s = .next (finished 0 0 { s with warn := 0, wcnt := 0 }) := by
  rw [exec, execWclr, complete_eq_finished]
  rfl

theorem exec_accset (v : BitVec 24) (s : State) :
    exec (.accset v) s = .next (finished 0 0 { s with acc := v }) := by
  rw [exec, execAccset, complete_eq_finished]
  rfl

/-- Settles O30: the three ends, and the reserved bits of the two rows of format Z. -/
theorem nopWclrAndAccsetResults : Obligations.NopWclrAndAccsetResults := by
  unfold Obligations.NopWclrAndAccsetResults
  exact ⟨exec_nop, exec_wclr, exec_accset, refusesReserved_of_row .nop (by decide) BitVec.and_self,
    refusesReserved_of_row .wclr (by decide) BitVec.and_self⟩

/-! ### REGRD (R105) -/

theorem regOfNumber_eq_none {r : BitVec 8} (h : 10 ≤ r.toNat) : regOfNumber r = none :=
  Option.not_isSome_iff_eq_none.1 fun hsome => absurd ((regOfNumber_isSome_iff r).1 hsome) (by omega)

/-- A completing REGRD in the numbers of the statement: it answers the register's value as a number. -/
theorem exec_regrd_of_value {r : BitVec 8} {n : RegName} {s : State} {w : Nat} {x : BitVec w}
    (hr : regOfNumber r = some n) (hx : readReg n s = x.setWidth 32) :
    exec (.regrd r) s = .next { s with responses := s.responses ++ [BitVec.ofNat 32 x.toNat] } := by
  rw [exec_regrd_of_some hr, hx, BitVec.ofNat_toNat]
  rfl

/-- Settles O31: the ten registers one by one, the numbers that name none, and the reserved bits of the row. -/
theorem regrdResult : Obligations.RegrdResult := by
  unfold Obligations.RegrdResult
  refine ⟨?registers, ?range, refusesReserved_of_row (.regrd 0) (by decide) BitVec.and_self⟩
  case registers =>
    intro s
    have answers {r : BitVec 8} {w : Nat} {x : BitVec w} (n : RegName) (hr : regOfNumber r = some n)
        (hx : readReg n s = x.setWidth 32) := exec_regrd_of_value hr hx
    simp only [List.forall_mem_cons]
    exact ⟨answers .mode rfl rfl, answers .stat rfl rfl, answers .err rfl rfl, answers .warn rfl rfl,
      answers .wcnt rfl rfl, answers .addr rfl rfl, answers .page rfl rfl, answers .sub rfl rfl,
      answers .ctl rfl rfl, answers .acc rfl rfl, List.forall_mem_nil _⟩
  case range => exact fun r s hr => exec_regrd_of_none (regOfNumber_eq_none hr) s

/-! ### REGWR (R106, R107) -/

/-- The number of a register in the table of R16. -/
def regNumber : RegName → BitVec 8
  | .mode => 0
  | .stat => 1
  | .err => 2
  | .warn => 3
  | .wcnt => 4
  | .addr => 5
  | .page => 6
  | .sub => 7
  | .ctl => 8
  | .acc => 9

/-- A number that names a register is the register's number. -/
theorem eq_regNumber_of_regOfNumber {r : BitVec 8} {n : RegName} (h : regOfNumber r = some n) : r = regNumber n := by
  unfold regOfNumber at h
  split_ifs at h <;> (cases h; assumption)

/-- The registers with a write mask are those of R106. -/
theorem regNumber_mem_of_writeMask {n : RegName} {m : BitVec 16} (h : writeMask n = some m) :
    regNumber n ∈ [(0 : BitVec 8), 5, 6, 7, 8] := by
  cases n with
  | mode | addr | page | sub | ctl => decide
  | stat | err | warn | wcnt | acc => cases h

/-- REGWR of a register that has a write mask. -/
theorem exec_regwr_of_writable {r : BitVec 8} {n : RegName} {m : BitVec 16} (hr : regOfNumber r = some n)
    (hm : writeMask n = some m) (val : BitVec 16) (s : State) :
    exec (.regwr r val) s = .next (finished 0 0 (writeReg n (val &&& m) s)) := by
  simp only [exec, execRegwr, hr, hm, complete_eq_finished]

/-- REGWR of a number outside the list of R106: it names no register, or one without a write mask. -/
theorem exec_regwr_of_not_mem {r : BitVec 8} (h : r ∉ [(0 : BitVec 8), 5, 6, 7, 8]) (val : BitVec 16) (s : State) :
    exec (.regwr r val) s = .next (faulted 3 s) := by
  rw [exec, execRegwr]
  cases hr : regOfNumber r with
  | none => rfl
  | some n =>
    cases hm : writeMask n with
    | none => simp only [hm, raiseFault_eq, ErrCode.code]
    | some m => exact absurd (eq_regNumber_of_regOfNumber hr ▸ regNumber_mem_of_writeMask hm) h

/-- Settles O32: the five registers with their masks, and every other number. -/
theorem regwrResult : Obligations.RegwrResult := by
  unfold Obligations.RegwrResult
  refine ⟨fun val s => ?writable, fun r val s hr => exec_regwr_of_not_mem hr val s⟩
  case writable =>
    have writes {r : BitVec 8} {m : BitVec 16} (n : RegName) (hr : regOfNumber r = some n)
        (hm : writeMask n = some m) := exec_regwr_of_writable hr hm val s
    exact ⟨writes .mode rfl rfl, writes .addr rfl rfl, writes .page rfl rfl, writes .sub rfl rfl,
      writes .ctl rfl rfl⟩

/-! ### PBWR and PBRD (R110, R111) -/

theorem pbIndexOk_of_lt {idx : BitVec 8} (h : idx.toNat < 40) : pbIndexOk idx = true := decide_eq_true h

theorem pbIndexOk_of_le {idx : BitVec 8} (h : 40 ≤ idx.toNat) : pbIndexOk idx = false :=
  decide_eq_false (Nat.not_lt.2 h)

theorem exec_pbwr_of_lt {idx : BitVec 8} (h : idx.toNat < 40) (val : BitVec 8) (s : State) :
    exec (.pbwr idx val) s = .next (finished 0 0 { s with pb := s.pb.write idx.toNat val }) := by
  rw [exec, execPbwr, if_pos (pbIndexOk_of_lt h), complete_eq_finished]
  rfl

theorem exec_pbwr_of_le {idx : BitVec 8} (h : 40 ≤ idx.toNat) (val : BitVec 8) (s : State) :
    exec (.pbwr idx val) s = .next (faulted 3 s) := by
  rw [exec, execPbwr, pbIndexOk_of_le h]
  rfl

theorem exec_pbrd_of_lt {idx : BitVec 8} (h : idx.toNat < 40) (s : State) :
    exec (.pbrd idx) s = .next (finished 0 ((s.pb.read idx.toNat).setWidth 32) s) := by
  rw [exec, execPbrd, if_pos (pbIndexOk_of_lt h), complete_eq_finished]

theorem exec_pbrd_of_le {idx : BitVec 8} (h : 40 ≤ idx.toNat) (s : State) :
    exec (.pbrd idx) s = .next (faulted 3 s) := by
  rw [exec, execPbrd, pbIndexOk_of_le h]
  rfl

/-- Settles O33: the two cases of the index, the buffer by its read-after-write law, and the reserved bits. -/
theorem pbwrResult : Obligations.PbwrResult := by
  unfold Obligations.PbwrResult
  exact ⟨fun idx val s hwf hlt => ⟨_, exec_pbwr_of_lt hlt val s, read_write hwf idx.toNat val⟩,
    fun idx val s hle => exec_pbwr_of_le hle val s, refusesReserved_of_row (.pbwr 0 0) (by decide) BitVec.and_self⟩

/-! ### PBCLR (R112) -/

/-- A canonical buffer lists no address outside PB[0..39]. -/
theorem read_eq_zero_of_le {m : Memory} (hwf : Memory.wf m = true) {a : Nat} (ha : 40 ≤ a) : Memory.read m a = 0 := by
  induction m with
  | nil => rfl
  | cons c rest ih =>
    obtain ⟨b, v⟩ := c
    obtain ⟨hb, -, -, hrest⟩ := (wf_cell b v rest).1 hwf
    rw [read_cell, if_neg (by omega), ih hrest]

/-- A canonical buffer lists no cell that reads as 0, so the one with nothing else is the empty list. -/
theorem eq_nil_of_read_eq_zero {m : Memory} (hwf : Memory.wf m = true) (hread : ∀ a, Memory.read m a = 0) :
    m = [] := by
  cases m with
  | nil => rfl
  | cons c rest =>
    obtain ⟨b, v⟩ := c
    obtain ⟨-, hv, -, -⟩ := (wf_cell b v rest).1 hwf
    have hfirst := hread b
    rw [read_cell, if_pos rfl] at hfirst
    exact absurd hfirst hv

/-- The 40 writes of 0x00 empty a canonical buffer. -/
theorem store_zeros_eq_nil {m : Memory} (hwf : Memory.wf m = true) : Memory.store m 0 (List.replicate 40 0) = [] := by
  have hlen : 0 + (List.replicate 40 (0 : Byte)).length ≤ 40 := by rw [List.length_replicate]
  refine eq_nil_of_read_eq_zero (wf_store hwf _ hlen) fun a => ?_
  rw [read_store hwf _ hlen, List.length_replicate]
  split_ifs with ha
  · rw [List.getD_replicate _ (by omega)]
  · exact read_eq_zero_of_le hwf (by omega)

theorem exec_pbclr {s : State} (hwf : s.pb.wf = true) :
    exec .pbclr s = .next (finished 0 0 { s with pb := State.reset.pb }) := by
  rw [exec, execPbclr, Config.pbLen, store_zeros_eq_nil hwf, complete_eq_finished]
  rfl

/-- Settles O34: PBRD by the two cases of the index, PBCLR by the emptied buffer, and the reserved bits of the two
rows, which for PBRD are two fields. -/
theorem pbrdAndPbclrResults : Obligations.PbrdAndPbclrResults := by
  unfold Obligations.PbrdAndPbclrResults
  exact ⟨fun idx s hlt => exec_pbrd_of_lt hlt s, fun idx s hle => exec_pbrd_of_le hle s,
    refusesReserved_of_row (.pbrd 0) (by decide) (by decide), refusesReserved_of_row (.pbrd 0) (by decide) (by decide),
    fun s hwf => exec_pbclr hwf, read_nil, refusesReserved_of_row .pbclr (by decide) BitVec.and_self⟩

end Sys2Proof.Proofs
end

section
/-! Proofs, spec/44_fields.md. FDWR by the fields of the body it stores; EXTRACT and INSERT by the descriptor walk, and
INSERT's buffer bit by bit, one segment after another; TRIPGET and TRIPPUT by the slot check, TRIPGET's packed values as
sums of numbers. -/

namespace Sys2Proof.Proofs

open Sys2Proof Sys2Proof.Machine Sys2Proof.Laws

/-! ### FDWR and FDCLR (R118, R119) -/

/-- The 18 bits of a field's place that are in the payload W[17:0]. -/
theorem extractLsb'_payload_fieldAt {n : Nat} (x : BitVec n) (lo : Nat) :
    (fieldAt x lo).extractLsb' 0 18 = x.setWidth 18 <<< lo := by
  refine BitVec.eq_of_getLsbD_eq fun i hi => ?_
  rw [BitVec.getLsbD_extractLsb', getLsbD_fieldAt]
  simp [hi, show i < 32 by omega]

/-- The body is W[17:0] of the command (R118). -/
theorem segBody_eq (idx : BitVec 6) (last : BitVec 1) (byte : BitVec 6) (lsb wm1 : BitVec 3) (off : BitVec 5) :
    segBody last byte lsb wm1 off = (encode (.fdwr idx last byte lsb wm1 off)).extractLsb' 0 18 := by
  simp [encode, extractLsb'_or, extractLsb'_fieldAt_other, extractLsb'_payload_fieldAt, segBody]

section
variable (last : BitVec 1) (byte : BitVec 6) (lsb wm1 : BitVec 3) (off : BitVec 5)

/-- A field of the body is that field of the command's word. -/
theorem extractLsb'_segBody {lo n : Nat} (h : lo + n ≤ 18) :
    (segBody last byte lsb wm1 off).extractLsb' lo n = (encode (.fdwr 0 last byte lsb wm1 off)).extractLsb' lo n := by
  rw [segBody_eq 0, BitVec.extractLsb'_extractLsb'_of_le h]

/-- The fields of R115 of the body are the operands. -/
theorem fields_segBody : segByte (segBody last byte lsb wm1 off) = byte.toNat ∧
    segLsb (segBody last byte lsb wm1 off) = lsb.toNat ∧ segWidth (segBody last byte lsb wm1 off) = wm1.toNat + 1 ∧
    segOff (segBody last byte lsb wm1 off) = off.toNat := by
  rw [segByte, segLsb, segWidth, segOff]
  simp [extractLsb'_segBody, encode, extractLsb'_or, extractLsb'_fieldAt_self, extractLsb'_fieldAt_other]

/-- The first two lines of R117 in the operands. -/
theorem segFits_segBody_iff : segFits (segBody last byte lsb wm1 off) = true ↔
    lsb.toNat + (wm1.toNat + 1) ≤ 8 ∧ off.toNat + (wm1.toNat + 1) ≤ 24 := by
  simp [segFits, fields_segBody]

/-- The last line of R117 in the operands. -/
theorem segInPb_segBody_iff : segInPb (segBody last byte lsb wm1 off) = true ↔ byte.toNat < 40 := by
  simp [segInPb, fields_segBody]

end

section
variable {last : BitVec 1} {byte : BitVec 6} {lsb wm1 : BitVec 3} {off : BitVec 5}

theorem exec_fdwr_of_not_fits (h : ¬ segFits (segBody last byte lsb wm1 off) = true) (idx : BitVec 6) (s : State) :
    exec (.fdwr idx last byte lsb wm1 off) s = .next (faulted 2 s) := by
  rw [exec, execFdwr, if_neg h]
  rfl

theorem exec_fdwr_of_not_inPb (hfits : segFits (segBody last byte lsb wm1 off) = true)
    (h : ¬ segInPb (segBody last byte lsb wm1 off) = true) (idx : BitVec 6) (s : State) :
    exec (.fdwr idx last byte lsb wm1 off) s = .next (faulted 3 s) := by
  rw [exec, execFdwr, if_pos hfits, if_neg h]
  rfl

theorem exec_fdwr_of_good (hfits : segFits (segBody last byte lsb wm1 off) = true)
    (hin : segInPb (segBody last byte lsb wm1 off) = true) (idx : BitVec 6) (s : State) :
    exec (.fdwr idx last byte lsb wm1 off) s =
      .next (finished 0 0 { s with fd := s.fd.set idx.toNat ⟨true, segBody last byte lsb wm1 off⟩ idx.isLt }) := by
  rw [exec, execFdwr, if_pos hfits, if_pos hin]
  rfl

end

/-- The written entry of FD, and every other as before. -/
theorem fdAt_set (fd : Vector FdEntry Config.fdLen) (i : BitVec 6) (e : FdEntry) (j : Nat) :
    fdAt (fd.set i.toNat e i.isLt) j = if j = i.toNat then e else fdAt fd j := by
  rw [fdAt, fdAt, Vector.toList_set, List.getD_eq_getElem?_getD, List.getD_eq_getElem?_getD]
  by_cases hj : j = i.toNat
  · have hlen : i.toNat < fd.toList.length := by simpa using i.isLt
    rw [hj, if_pos rfl, List.getElem?_set_self hlen, Option.getD_some]
  · rw [if_neg hj, List.getElem?_set_ne (Ne.symm hj)]

/-- Settles O35: the two checks in their order, and the entry written. -/
theorem fdwrResult : Obligations.FdwrResult := by
  unfold Obligations.FdwrResult
  intro idx last byte lsb wm1 off s
  have hfits_iff := segFits_segBody_iff last byte lsb wm1 off
  have hin_iff := segInPb_segBody_iff last byte lsb wm1 off
  split_ifs with hgeometry hbyte
  · exact exec_fdwr_of_not_fits (mt hfits_iff.1 (by omega)) idx s
  · exact exec_fdwr_of_not_inPb (hfits_iff.2 (by omega)) (mt hin_iff.1 (by omega)) idx s
  · refine ⟨_, exec_fdwr_of_good (hfits_iff.2 (by omega)) (hin_iff.2 (by omega)) idx s, ?entry,
      fun i _ hne => ?others⟩
    case entry => rw [fdAt_set, if_pos rfl, segBody_eq idx]
    case others => rw [fdAt_set, if_neg hne]

theorem exec_fdclr (s : State) : exec .fdclr s = .next (finished 0 0 { s with fd := State.reset.fd }) := by
  rw [exec, execFdclr, complete_eq_finished]
  rfl

theorem fdAt_reset (i : Nat) : fdAt State.reset.fd i = FdEntry.empty := by
  simp only [fdAt, State.reset, Vector.toList_replicate, List.getD_eq_getElem?_getD, List.getElem?_replicate]
  split_ifs <;> rfl

/-- Settles O36: FD becomes that of reset, whose entries are all empty, and the reserved bits. -/
theorem fdclrResult : Obligations.FdclrResult := by
  unfold Obligations.FdclrResult
  exact ⟨exec_fdclr, fun i _ => congrArg FdEntry.valid (fdAt_reset i),
    refusesReserved_of_row .fdclr (by decide) BitVec.and_self⟩

/-! ### Descriptor runs (R116, R120) -/

/-- A run is longer by one when the entry after it is valid and not LAST. -/
theorem openRun_succ_iff (fd : Vector FdEntry Config.fdLen) (start n : Nat) :
    openRun fd start (n + 1) ↔ openRun fd start n ∧
      (fdAt fd (start + n)).valid = true ∧ segLast (fdAt fd (start + n)).body = false :=
  Nat.forall_lt_succ_right

/-- The first `n` entries are a run, or one of them is the first that is not valid or is LAST. -/
theorem openRun_or_stops (fd : Vector FdEntry Config.fdLen) (start n : Nat) :
    openRun fd start n ∨ ∃ m < n, openRun fd start m ∧
      ((fdAt fd (start + m)).valid = false ∨
        (fdAt fd (start + m)).valid = true ∧ segLast (fdAt fd (start + m)).body = true) := by
  induction n with
  | zero => exact .inl fun k hk => absurd hk (Nat.not_lt_zero k)
  | succ n ih =>
    rcases ih with hopen | ⟨m, hm, hstop⟩
    · cases hv : (fdAt fd (start + n)).valid with
      | false => exact .inr ⟨n, Nat.lt_succ_self n, hopen, .inl hv⟩
      | true =>
        cases hl : segLast (fdAt fd (start + n)).body with
        | false => exact .inl ((openRun_succ_iff fd start n).2 ⟨hopen, hv, hl⟩)
        | true => exact .inr ⟨n, Nat.lt_succ_self n, hopen, .inr ⟨hv, hl⟩⟩
    · exact .inr ⟨m, Nat.lt_succ_of_lt hm, hstop⟩

theorem brokenRun_or_isDescriptor (fd : Vector FdEntry Config.fdLen) (start : Nat) :
    brokenRun fd start ∨ ∃ n, isDescriptor fd start n := by
  rcases openRun_or_stops fd start (64 - start) with hopen | ⟨m, hm, hopen, hv | ⟨hv, hl⟩⟩
  · exact .inl (.inr hopen)
  · exact .inl (.inl ⟨m, by omega, hopen, hv⟩)
  · exact .inr ⟨m, by omega, hopen, hv, hl⟩

/-- The walk gives the bodies of a descriptor and nothing for a broken run, so a run is not both. -/
theorem not_isDescriptor_of_brokenRun {fd : Vector FdEntry Config.fdLen} {start : BitVec 6}
    (h : brokenRun fd start.toNat) : ¬ ∃ n, isDescriptor fd start.toNat n := by
  rintro ⟨n, hn⟩
  have hboth := (walk_of_broken h).symm.trans (walk_of_descriptor hn)
  exact absurd hboth nofun

theorem exec_extract_of_broken {start : BitVec 6} {s : State} (h : brokenRun s.fd start.toNat) :
    exec (.extract start) s = .next (faulted 4 s) := by
  rw [exec, execExtract, walk_of_broken h]
  rfl

theorem exec_insert_of_broken {start : BitVec 6} {s : State} (h : brokenRun s.fd start.toNat) :
    exec (.insert start) s = .next (faulted 4 s) := by
  rw [exec, execInsert, walk_of_broken h]
  rfl

/-- Settles O37: a run stops at an entry or passes entry 63, the walk tells the two cases apart, and a broken run leaves
it without segments. -/
theorem brokenRunFaultsEFd : Obligations.BrokenRunFaultsEFd := by
  unfold Obligations.BrokenRunFaultsEFd
  refine ⟨fun fd start => ?exactlyOne, fun start s h => ⟨exec_extract_of_broken h, exec_insert_of_broken h⟩⟩
  case exactlyOne =>
    rcases brokenRun_or_isDescriptor fd start.toNat with hbroken | hdesc
    · exact .inl ⟨hbroken, not_isDescriptor_of_brokenRun hbroken⟩
    · exact .inr ⟨fun hbroken => not_isDescriptor_of_brokenRun hbroken hdesc, hdesc⟩

/-! ### EXTRACT (R121) -/

theorem exec_extract_of_descriptor {start : BitVec 6} {n : Nat} {s : State} (h : isDescriptor s.fd start.toNat n) :
    exec (.extract start) s =
      .next (finished 0 ((gatherField s.pb (runBodies s.fd start.toNat n)).setWidth 32)
        { s with acc := gatherField s.pb (runBodies s.fd start.toNat n) }) := by
  rw [exec, execExtract, walk_of_descriptor h]
  rfl

/-- Settles O38: the walk's segments gathered, which is the fold of the statement, the broken run, and the reserved
bits. -/
theorem extractResult : Obligations.ExtractResult := by
  unfold Obligations.ExtractResult
  exact ⟨fun start n s h => exec_extract_of_descriptor h, fun start s h => exec_extract_of_broken h,
    refusesReserved_of_row (.extract 0) (by decide) BitVec.and_self⟩

/-! ### INSERT (R122) -/

/-- The segment lies on bit `j` of PB byte `a` (R115). -/
def segCovers (body : BitVec 18) (a j : Nat) : Bool :=
  decide (segByte body = a ∧ segLsb body ≤ j ∧ j < segLsb body + segWidth body)

theorem getLsbD_widthMask (w i : Nat) : (widthMask w).getLsbD i = (decide (i < 8) && decide (i < w)) := by
  rw [widthMask, BitVec.getLsbD_ofNat, Nat.testBit_two_pow_sub_one]

/-- The shifted mask of R115 has a 1 in the bits that the segment lies on. -/
theorem getLsbD_segMask (body : BitVec 18) {j : Nat} (hj : j < 8) :
    (widthMask (segWidth body) <<< segLsb body).getLsbD j = segCovers body (segByte body) j := by
  rw [BitVec.getLsbD_shiftLeft, getLsbD_widthMask, segCovers, Bool.eq_iff_iff]
  simp only [Bool.and_eq_true, Bool.not_eq_true', decide_eq_true_eq, decide_eq_false_iff_not, true_and]
  omega

/-- The bits of ACC that R122 puts into the byte: from OFF up, where the segment lies. -/
theorem getLsbD_segValue (acc : BitVec Config.accW) (body : BitVec 18) {j : Nat} (hj : j < 8) :
    (((acc >>> segOff body).setWidth 8 &&& widthMask (segWidth body)) <<< segLsb body).getLsbD j =
      (segCovers body (segByte body) j && acc.getLsbD (segOff body + (j - segLsb body))) := by
  rw [BitVec.shiftLeft_and_distrib, BitVec.getLsbD_and, getLsbD_segMask body hj, Bool.and_comm]
  cases hcov : segCovers body (segByte body) j with
  | false => rw [Bool.false_and, Bool.false_and]
  | true =>
    obtain ⟨-, hlsb, -⟩ := of_decide_eq_true hcov
    simp [hj, hlsb]

/-- After one segment is written, the bits it lies on are those of ACC from OFF up, every other bit is as before. -/
theorem getLsbD_read_segWrite {pb : Memory} (hwf : pb.wf = true) (acc : BitVec Config.accW) (body : BitVec 18) (a : Nat)
    {j : Nat} (hj : j < 8) :
    ((segWrite acc pb body).read a).getLsbD j =
      if segCovers body a j then acc.getLsbD (segOff body + (j - segLsb body)) else (pb.read a).getLsbD j := by
  rw [segWrite, read_write hwf]
  by_cases ha : a = segByte body
  · subst ha
    rw [if_pos rfl, BitVec.getLsbD_or, BitVec.getLsbD_and, BitVec.getLsbD_not, getLsbD_segMask body hj,
      getLsbD_segValue acc body hj]
    cases segCovers body (segByte body) j <;> simp [hj]
  · rw [if_neg ha, segCovers, decide_eq_false fun hcov => ha hcov.1.symm, if_neg Bool.false_ne_true]

theorem segByte_lt_of_segGood {body : BitVec 18} (h : segGood body = true) : segByte body < 40 := by
  rw [segGood, Bool.and_eq_true] at h
  exact of_decide_eq_true h.2

/-- Scattering segments of PB keeps the canonical form. -/
theorem wf_scatterField (acc : BitVec Config.accW) {segs : List (BitVec 18)} (hin : ∀ b ∈ segs, segGood b = true)
    {pb : Memory} (hwf : pb.wf = true) : (scatterField acc segs pb).wf = true := by
  induction segs generalizing pb with
  | nil => exact hwf
  | cons b rest ih =>
    obtain ⟨hb, hrest⟩ := List.forall_mem_cons.1 hin
    exact ih hrest (wf_write hwf (segByte_lt_of_segGood hb) _)

theorem scatterField_concat (acc : BitVec Config.accW) (segs : List (BitVec 18)) (b : BitVec 18) (pb : Memory) :
    scatterField acc (segs ++ [b]) pb = segWrite acc (scatterField acc segs pb) b := by
  rw [scatterField, List.foldl_append]
  rfl

/-- The last of the segments that lie on a bit of PB. -/
def lastCovering (segs : List (BitVec 18)) (a j : Nat) : Option (BitVec 18) :=
  segs.reverse.find? fun b => segCovers b a j

theorem lastCovering_concat (segs : List (BitVec 18)) (b : BitVec 18) (a j : Nat) :
    lastCovering (segs ++ [b]) a j = if segCovers b a j then some b else lastCovering segs a j := by
  rw [lastCovering, List.reverse_concat, List.find?_cons]
  cases segCovers b a j <;> rfl

/-- A bit of PB after the segments are scattered: that of the last segment on it, or as before. -/
theorem getLsbD_read_scatterField (acc : BitVec Config.accW) {segs : List (BitVec 18)}
    (hin : ∀ b ∈ segs, segGood b = true) {pb : Memory} (hwf : pb.wf = true) (a : Nat) {j : Nat} (hj : j < 8) :
    ((scatterField acc segs pb).read a).getLsbD j =
      (lastCovering segs a j).elim ((pb.read a).getLsbD j) fun b => acc.getLsbD (segOff b + (j - segLsb b)) := by
  induction segs using List.reverseRecOn with
  | nil => rfl
  | append_singleton segs b ih =>
    have hsegs : ∀ c ∈ segs, segGood c = true := fun c hc => hin c (List.mem_append_left _ hc)
    rw [scatterField_concat, getLsbD_read_segWrite (wf_scatterField acc hsegs hwf) acc b a hj, lastCovering_concat]
    split_ifs
    · rfl
    · exact ih hsegs

theorem exec_insert_of_descriptor {start : BitVec 6} {n : Nat} {s : State} (h : isDescriptor s.fd start.toNat n) :
    exec (.insert start) s =
      .next (finished 0 0 { s with pb := scatterField s.acc (runBodies s.fd start.toNat n) s.pb }) := by
  rw [exec, execInsert, walk_of_descriptor h]
  rfl

/-- Settles O39: the walk's segments scattered, read bit by bit, the broken run, and the reserved bits. -/
theorem insertResult : Obligations.InsertResult := by
  unfold Obligations.InsertResult
  refine ⟨fun start n s hwf hdesc hgood => ⟨_, exec_insert_of_descriptor hdesc, fun a j hj => ?bits⟩,
    fun start s h => exec_insert_of_broken h, refusesReserved_of_row (.insert 0) (by decide) BitVec.and_self⟩
  case bits =>
    rw [getLsbD_read_scatterField s.acc hgood hwf a hj]
    unfold lastCovering segCovers
    generalize List.find? _ _ = last
    cases last <;> rfl

/-! ### TRIPGET (R127 to R130) -/

/-- A value with a second one put above its `k` bits is the sum of their numbers, each in its place. -/
theorem toNat_or_shiftLeft {w k : Nat} {x y : BitVec w} (hx : x.toNat < 2 ^ k) (hy : 2 ^ k * y.toNat < 2 ^ w) :
    (x ||| y <<< k).toNat = x.toNat + 2 ^ k * y.toNat := by
  rw [BitVec.toNat_or, BitVec.toNat_shiftLeft, Nat.shiftLeft_eq, Nat.mul_comm y.toNat, Nat.mod_eq_of_lt hy, Nat.or_comm,
    ← Nat.two_pow_add_eq_or_of_lt hx, Nat.add_comm]

/-- A group byte without its two ignored bits (R130). -/
theorem toNat_and_groupMask (b : Byte) : (b &&& 0x3F).toNat = b.toNat % 64 :=
  Nat.and_two_pow_sub_one_eq_mod b.toNat 6

theorem toNat_tripletOfBytes (b0 b1 b2 : Byte) : (tripletOfBytes b0 b1 b2).toNat =
    b0.toNat % 64 + 2 ^ 6 * (b1.toNat % 64) + 2 ^ 12 * (b2.toNat % 64) := by
  have hgroup (b : Byte) : ((b &&& 0x3F).setWidth 18).toNat = b.toNat % 64 := by
    rw [BitVec.toNat_setWidth_of_le (by decide), toNat_and_groupMask]
  have hlow : ((b0 &&& 0x3F).setWidth 18 ||| (b1 &&& 0x3F).setWidth 18 <<< 6).toNat =
      b0.toNat % 64 + 2 ^ 6 * (b1.toNat % 64) := by
    rw [toNat_or_shiftLeft (by rw [hgroup]; omega) (by rw [hgroup]; omega), hgroup, hgroup]
  rw [tripletOfBytes, toNat_or_shiftLeft (by rw [hlow]; omega) (by rw [hgroup]; omega), hlow, hgroup]

theorem tripletRow_eq (v : BitVec 18) : tripletRow v = decide (40 ≤ v.toNat % 64) := by
  rw [tripletRow, tripletAddress, BitVec.extractLsb'_toNat]
  rfl

theorem toNat_tripletMode (v : BitVec 18) : (tripletMode v).toNat = v.toNat / 64 % 32 := by
  rw [tripletMode, BitVec.extractLsb'_toNat, Nat.shiftRight_eq_div_pow]

/-- R129 in numbers: bit 5 of the extended mode is set for a column triplet. -/
theorem toNat_tripletExtMode (v : BitVec 18) :
    (tripletExtMode v).toNat = if 40 ≤ v.toNat % 64 then v.toNat / 64 % 32 else v.toNat / 64 % 32 + 32 := by
  have hmode : ((tripletMode v).setWidth 6).toNat = v.toNat / 64 % 32 := by
    rw [BitVec.toNat_setWidth, toNat_tripletMode]
    omega
  have hcolumn : ((tripletMode v).setWidth 6 ||| 0x20).toNat = v.toNat / 64 % 32 + 32 := by
    rw [← hmode]
    exact toNat_or_shiftLeft (y := 1#6) (k := 5) (by rw [hmode]; omega) (by decide)
  simp only [tripletExtMode, tripletRow_eq, decide_eq_true_eq]
  split_ifs
  · exact hmode
  · exact hcolumn

/-- The response of TRIPGET in numbers (R130). -/
theorem toNat_tripgetResponse (v : BitVec 18) : (tripgetResponse v).toNat =
    v.toNat + 2 ^ 18 * (tripletExtMode v).toNat + 2 ^ 24 * (if 40 ≤ v.toNat % 64 then 1 else 0) := by
  have hvalue : (v.setWidth 32).toNat = v.toNat := BitVec.toNat_setWidth_of_le (by decide)
  have hext : ((tripletExtMode v).setWidth 32).toNat = (tripletExtMode v).toNat :=
    BitVec.toNat_setWidth_of_le (by decide)
  have hrow : (if tripletRow v then 1#32 else 0).toNat = if 40 ≤ v.toNat % 64 then 1 else 0 := by
    simp only [tripletRow_eq, decide_eq_true_eq]
    split_ifs <;> rfl
  have hplace : (if tripletRow v then 1#32 <<< 24 else 0) = (if tripletRow v then 1#32 else 0) <<< 24 := by
    split_ifs <;> rfl
  have hlow : (v.setWidth 32 ||| (tripletExtMode v).setWidth 32 <<< 18).toNat =
      v.toNat + 2 ^ 18 * (tripletExtMode v).toNat := by
    rw [toNat_or_shiftLeft (by omega) (by omega), hvalue, hext]
  rw [tripgetResponse, hplace, toNat_or_shiftLeft (by omega) (by rw [hrow]; split_ifs <;> decide), hlow, hrow]

/-- The value of a slot in numbers (R127, R130). -/
theorem toNat_tripletAt (pb : Memory) (k : Nat) : (tripletAt pb k).toNat =
    (pb.read (1 + 3 * k)).toNat % 64 + 2 ^ 6 * ((pb.read (2 + 3 * k)).toNat % 64) +
      2 ^ 12 * ((pb.read (3 + 3 * k)).toNat % 64) := by
  rw [tripletAt, toNat_tripletOfBytes, slotBase, show 1 + 3 * k + 1 = 2 + 3 * k by omega,
    show 1 + 3 * k + 2 = 3 + 3 * k by omega]

theorem slotOk_of_lt {k : BitVec 4} (h : k.toNat < 13) : slotOk k = true := decide_eq_true h

theorem slotOk_of_le {k : BitVec 4} (h : 13 ≤ k.toNat) : slotOk k = false := decide_eq_false (Nat.not_lt.2 h)

theorem exec_tripget_of_lt {k : BitVec 4} (h : k.toNat < 13) (s : State) :
    exec (.tripget k) s = .next (finished 0 (tripgetResponse (tripletAt s.pb k.toNat)) s) := by
  rw [exec, execTripget, if_pos (slotOk_of_lt h), complete_eq_finished]

theorem exec_tripget_of_le {k : BitVec 4} (h : 13 ≤ k.toNat) (s : State) :
    exec (.tripget k) s = .next (faulted 3 s) := by
  rw [exec, execTripget, slotOk_of_le h]
  rfl

/-- Settles O41: the response as a sum of its parts, each a number, the slot check, and the reserved bits of the row,
which are two fields. -/
theorem tripgetResult : Obligations.TripgetResult := by
  unfold Obligations.TripgetResult
  refine ⟨fun k s h => ?answer, fun k s h => exec_tripget_of_le h s,
    refusesReserved_of_row (.tripget 0) (by decide) (by decide),
    refusesReserved_of_row (.tripget 0) (by decide) (by decide)⟩
  case answer =>
    intro v row extmode
    have hv : (tripletAt s.pb k.toNat).toNat = v := toNat_tripletAt s.pb k.toNat
    have hresponse : (tripgetResponse (tripletAt s.pb k.toNat)).toNat = v + 2 ^ 18 * extmode + 2 ^ 24 * row := by
      rw [toNat_tripgetResponse, toNat_tripletExtMode, hv]
    rw [exec_tripget_of_lt h, ← hresponse, BitVec.ofNat_toNat, BitVec.setWidth_eq]

/-! ### TRIPPUT (R131) -/

section
variable {pb : Memory} (hwf : pb.wf = true) {k : Nat} (hk : k < 13) (v : BitVec 18)
include hwf hk

/-- The three bytes of slot k are inside PB. -/
theorem read_store_slot (a : Nat) : (pb.store (slotBase k) (bytesOfTriplet v)).read a =
    if slotBase k ≤ a ∧ a < slotBase k + 3 then (bytesOfTriplet v).getD (a - slotBase k) 0 else pb.read a :=
  read_store hwf _ (show 1 + 3 * k + 3 ≤ 40 by omega) a

/-- Byte `i` of the slot, at the address `a`, is group `i` of the value (R127, R131). -/
theorem read_store_slot_group {a i : Nat} (ha : a = slotBase k + i) (hi : i < 3) :
    (pb.store (slotBase k) (bytesOfTriplet v)).read a = (bytesOfTriplet v).getD i 0 := by
  rw [read_store_slot hwf hk, if_pos (by omega), ha, Nat.add_sub_cancel_left]

theorem read_store_slot_of_outside {a : Nat} (ha : a < 1 + 3 * k ∨ 3 + 3 * k < a) :
    (pb.store (slotBase k) (bytesOfTriplet v)).read a = pb.read a := by
  rw [read_store_slot hwf hk, if_neg (by rw [slotBase]; omega)]

end

theorem exec_tripput_of_lt {k : BitVec 4} (h : k.toNat < 13) (v : BitVec 18) (s : State) :
    exec (.tripput k v) s =
      .next (finished 0 0 { s with pb := s.pb.store (slotBase k.toNat) (bytesOfTriplet v) }) := by
  rw [exec, execTripput, if_pos (slotOk_of_lt h), complete_eq_finished]
  rfl

theorem exec_tripput_of_le {k : BitVec 4} (h : 13 ≤ k.toNat) (v : BitVec 18) (s : State) :
    exec (.tripput k v) s = .next (faulted 3 s) := by
  rw [exec, execTripput, slotOk_of_le h]
  rfl

/-- Settles O42: the buffer at the slot's bytes and outside them, the slot check, and the reserved bits. -/
theorem tripputResult : Obligations.TripputResult := by
  unfold Obligations.TripputResult
  refine ⟨fun k v s hwf h => ?stored, fun k v s h => exec_tripput_of_le h v s,
    refusesReserved_of_row (.tripput 0 0) (by decide) BitVec.and_self⟩
  case stored =>
    have group {a : Nat} (i : Nat) (ha : a = slotBase k.toNat + i) (hi : i < 3) := read_store_slot_group hwf h v ha hi
    exact ⟨_, exec_tripput_of_lt h v s, group 0 rfl (by decide), group 1 (by rw [slotBase]; omega) (by decide),
      group 2 (by rw [slotBase]; omega) (by decide), fun a ha => read_store_slot_of_outside hwf h v ha⟩

end Sys2Proof.Proofs
end

section
/-! Proofs, spec/45_serializer.md R138 to R150. The bytes of a record one by one: the address bytes and the header
nibbles as sums of numbers, each template's payload as what its coding makes of one PB byte, or of one slot. -/

namespace Sys2Proof.Proofs

open Sys2Proof Sys2Proof.Machine Sys2Proof.Laws

/-! ### The mux (R138) -/

/-- Settles O43: with packet numbers compared as numbers, the mux and the chain of R138 differ only in the lower bound
of ROW and in how they write the two cases of packet 27. -/
theorem muxChoosesByPacketAndDesignation : Obligations.MuxChoosesByPacketAndDesignation := by
  unfold Obligations.MuxChoosesByPacketAndDesignation
  intro pkt dc
  simp only [mux, BitVec.toNat_eq, BitVec.ofNat_eq_ofNat, BitVec.toNat_ofNat, Nat.reducePow, Nat.reduceMod,
    Nat.zero_mod]
  split_ifs <;> grind

/-! ### The address bytes (R140) -/

/-- `a0` in numbers: the magazine, and packet bit 0 above it (R140). -/
theorem addressNibble0_eq (addr : BitVec 8) :
    addressNibble0 addr = BitVec.ofNat 4 (addr.toNat / 32 + 8 * (addr.toNat % 2)) := by
  revert addr
  decide +kernel

/-- `a1` in numbers: packet bits 4:1 (R140). -/
theorem addressNibble1_eq (addr : BitVec 8) : addressNibble1 addr = BitVec.ofNat 4 (addr.toNat % 32 / 2) := by
  revert addr
  decide +kernel

theorem eq_ofNat_of_toNat {w n : Nat} {x : BitVec w} (h : x.toNat = n) : x = BitVec.ofNat w n := by
  rw [← h, BitVec.ofNat_toNat, BitVec.setWidth_eq]

theorem h84d_h84e_ofNat {n : Nat} (h : n < 16) : h84d (h84e (BitVec.ofNat 4 n)) = BitVec.ofNat 8 n := by
  rw [(h84d_h84e _).1, BitVec.setWidth_ofNat_of_le_of_lt (by decide) h]

theorem h84d_h84e_ofNat_toNat {n : Nat} (h : n < 16) : (h84d (h84e (BitVec.ofNat 4 n))).toNat = n := by
  rw [h84d_h84e_ofNat h, BitVec.toNat_ofNat, Nat.mod_eq_of_lt (by omega)]

theorem getD_recordBytes_zero (t : Template) (s : State) :
    (recordBytes t s).getD 0 0 = h84e (addressNibble0 s.addr) := rfl

theorem getD_recordBytes_one (t : Template) (s : State) :
    (recordBytes t s).getD 1 0 = h84e (addressNibble1 s.addr) := rfl

/-- Coding the two address nibbles and reading them again gives ADDR back (R140). -/
theorem recordAddr_recordBytes (t : Template) (s : State) : recordAddr (recordBytes t s) = s.addr := by
  have h0 : (nibbleOf (recordBytes t s) 0).toNat = s.addr.toNat / 32 + 8 * (s.addr.toNat % 2) := by
    rw [nibbleOf, getD_recordBytes_zero, addressNibble0_eq, h84d_h84e_ofNat_toNat (by omega)]
  have h1 : (nibbleOf (recordBytes t s) 1).toNat = s.addr.toNat % 32 / 2 := by
    rw [nibbleOf, getD_recordBytes_one, addressNibble1_eq, h84d_h84e_ofNat_toNat (by omega)]
  have hmag : (s.addr.toNat / 32 + 8 * (s.addr.toNat % 2)) % 8 = s.addr.toNat / 32 := by omega
  have hbit : (s.addr.toNat / 32 + 8 * (s.addr.toNat % 2)) / 8 = s.addr.toNat % 2 := by omega
  have hpkt : s.addr.toNat % 2 + 2 * (s.addr.toNat % 32 / 2) = s.addr.toNat % 32 := by omega
  rw [recordAddr, recordPkt, h0, h1, hmag, hbit, hpkt, Nat.div_add_mod, BitVec.ofNat_toNat, BitVec.setWidth_eq]

/-- Settles O45: the first two bytes are the coded address nibbles, whatever the template. -/
theorem recordBeginsWithTheAddress : Obligations.RecordBeginsWithTheAddress := by
  unfold Obligations.RecordBeginsWithTheAddress
  intro t s
  rw [getD_recordBytes_zero, getD_recordBytes_one, addressNibble0_eq, addressNibble1_eq]
  exact ⟨length_recordBytes t s, rfl, rfl, h84d_h84e_ofNat (by omega), h84d_h84e_ofNat (by omega),
    recordAddr_recordBytes t s⟩

/-! ### The payload bytes (R136) -/

/-- The payload stands after the two address bytes. -/
theorem getD_recordBytes_payload (t : Template) (s : State) (i : Nat) :
    (recordBytes t s).getD (i + 2) 0 = (payloadBytes t s).getD i 0 := rfl

/-- Item `i` of a run of PB bytes that are coded one by one. -/
theorem getD_map_load (f : Byte → Byte) (m : Memory) {a n i : Nat} (hi : i < n) :
    ((m.load a n).map f).getD i 0 = f (m.read (a + i)) := by
  simp [Memory.load, hi]

theorem lowNibble_eq (b : Byte) : lowNibble b = BitVec.ofNat 4 (b.toNat % 16) := by
  refine BitVec.eq_of_toNat_eq ?_
  rw [lowNibble, BitVec.extractLsb'_toNat, BitVec.toNat_ofNat, Nat.shiftRight_zero]
  omega

/-- ROW: byte `i` with odd parity (R141). -/
theorem getD_recordBytes_row (s : State) {i : Nat} (hi : i < 40) :
    (recordBytes .row s).getD (i + 2) 0 = oddParity (s.pb.read i) := by
  rw [getD_recordBytes_payload, payloadBytes, rowPayload, getD_map_load _ _ hi, Nat.zero_add]

/-- LINK: byte `i` of the first 38 carries its low nibble (R146, R147). -/
theorem getD_recordBytes_link (s : State) {i : Nat} (hi : i < 38) :
    (recordBytes .link s).getD (i + 2) 0 = h84e (lowNibble (s.pb.read i)) := by
  rw [getD_recordBytes_payload, payloadBytes, linkPayload, List.getD_append _ _ _ _ (by simpa using hi),
    getD_map_load _ _ (by omega), Nat.zero_add]

/-- LINK: the last two bytes pass unchanged (R147). -/
theorem getD_recordBytes_link_plain (s : State) {i : Nat} (hi : i < 2) :
    (recordBytes .link s).getD (i + 40) 0 = s.pb.read (38 + i) := by
  rw [show i + 40 = i + 38 + 2 by omega, getD_recordBytes_payload, payloadBytes, linkPayload,
    List.getD_append_right _ _ _ _ (by simp), getD_load _ _ _ _ (by simpa using hi)]
  simp

/-- Settles O48: the bytes of the two templates one run after the other. -/
theorem rowAndLinkRecordsCarryTheirBytes : Obligations.RowAndLinkRecordsCarryTheirBytes := by
  unfold Obligations.RowAndLinkRecordsCarryTheirBytes
  intro s
  refine ⟨fun i => getD_recordBytes_row s, fun i hi => ?nibble, getD_recordBytes_link_plain s (i := 0) (by decide),
    getD_recordBytes_link_plain s (i := 1) (by decide)⟩
  case nibble => rw [getD_recordBytes_link s hi, lowNibble_eq]

/-- TRIP: the designation nibble (R145). -/
theorem getD_recordBytes_trip_designation (s : State) :
    (recordBytes .trip s).getD 2 0 = h84e (lowNibble (s.pb.read 0)) := rfl

/-- TRIP: stream byte `i` of the codeword of slot `k` (R145). -/
theorem getD_recordBytes_trip (s : State) {k i : Nat} (hk : k < 13) (hi : i < 3) :
    (recordBytes .trip s).getD (3 + 3 * k + i) 0 = (codewordBytes (h24enc (tripletAt s.pb k))).getD i 0 := by
  rw [show 3 + 3 * k + i = 3 * k + i + 1 + 2 by omega, getD_recordBytes_payload, payloadBytes, tripPayload,
    List.getD_cons_succ]
  exact getD_flatMap_range (fun k => codewordBytes (h24enc (tripletAt s.pb k))) 3 13 k i 0 (fun _ => rfl) hk hi

/-- Settles O47: the three stream bytes of each codeword, and the value of each slot as a number. -/
theorem tripRecordCarriesCodewords : Obligations.TripRecordCarriesCodewords := by
  unfold Obligations.TripRecordCarriesCodewords
  intro s
  refine ⟨by rw [getD_recordBytes_trip_designation, lowNibble_eq], fun k hk => ?codeword⟩
  case codeword =>
    intro v c
    have hv : (tripletAt s.pb k).toNat = v := toNat_tripletAt s.pb k
    have hc : h24enc (tripletAt s.pb k) = c := congrArg h24enc (eq_ofNat_of_toNat hv)
    have hbyte {a : Nat} (i : Nat) (ha : a = 3 + 3 * k + i) (hi : i < 3) :
        (recordBytes .trip s).getD a 0 = (codewordBytes c).getD i 0 := by
      rw [ha, getD_recordBytes_trip s hk hi, hc]
    exact ⟨hbyte 0 rfl (by decide), hbyte 1 (by omega) (by decide), hbyte 2 (by omega) (by decide)⟩

/-! ### The header nibbles (R143, R144) -/

/-- The header nibbles N(0) to N(7) of R144 as numbers. -/
def headerNumbers (page sub ctl : Nat) : List Nat :=
  [page % 16, page / 16, sub % 16, sub / 16 % 8 + 8 * bitOf ctl 0, sub / 256 % 16,
    sub / 4096 % 4 + 4 * bitOf ctl 1 + 8 * bitOf ctl 2,
    bitOf ctl 3 + 2 * bitOf ctl 4 + 4 * bitOf ctl 5 + 8 * bitOf ctl 6,
    bitOf ctl 7 + 2 * bitOf ctl 8 + 4 * bitOf ctl 9 + 8 * bitOf ctl 10]

theorem bitOf_lt (n i : Nat) : bitOf n i < 2 := Nat.mod_lt _ (by decide)

/-- `C(n)` in numbers. -/
theorem toNat_controlBit (ctl : BitVec 11) (i : Nat) : ((ctl >>> i).setWidth 4 &&& 1#4).toNat = bitOf ctl.toNat i := by
  have hlow : ((ctl >>> i).setWidth 4 &&& 1#4).toNat = ((ctl >>> i).setWidth 4).toNat % 2 ^ 1 :=
    Nat.and_two_pow_sub_one_eq_mod _ 1
  rw [hlow, BitVec.toNat_setWidth, BitVec.toNat_ushiftRight, Nat.shiftRight_eq_div_pow, bitOf]
  omega

/-- A number put above the `k` bits of another (`toNat_or_shiftLeft`), for parts whose numbers are known. -/
theorem toNat_pack {w k m n : Nat} {x y : BitVec w} (hx : x.toNat = m) (hy : y.toNat = n) (hm : m < 2 ^ k)
    (hn : 2 ^ k * n < 2 ^ w) : (x ||| y <<< k).toNat = m + 2 ^ k * n := by
  subst hx hy
  exact toNat_or_shiftLeft hm hn

theorem toNat_extractLsb'_eq {w : Nat} (x : BitVec w) (lo n : Nat) :
    (x.extractLsb' lo n).toNat = x.toNat / 2 ^ lo % 2 ^ n := by
  rw [BitVec.extractLsb'_toNat, Nat.shiftRight_eq_div_pow]

/-- A control bit put above the bits of a nibble that is not full. -/
theorem toNat_or_controlBit (ctl : BitVec 11) {x : BitVec 4} {m k : Nat} (hk : k < 4) (hx : x.toNat = m ∧ m < 2 ^ k)
    (i : Nat) : (x ||| ((ctl >>> i).setWidth 4 &&& 1#4) <<< k).toNat = m + 2 ^ k * bitOf ctl.toNat i ∧
      m + 2 ^ k * bitOf ctl.toNat i < 2 ^ (k + 1) := by
  have hc := bitOf_lt ctl.toNat i
  obtain ⟨hx, hm⟩ := hx
  have hsum : m + 2 ^ k * bitOf ctl.toNat i < 2 ^ (k + 1) := by
    interval_cases k <;> omega
  have hfits : 2 ^ (k + 1) ≤ 2 ^ 4 := Nat.pow_le_pow_right (by decide) hk
  exact ⟨toNat_pack hx (toNat_controlBit ctl i) hm (by omega), hsum⟩

/-- R144 in numbers: a digit is a part of PAGE or SUB, or is filled with control bits one above the other. -/
theorem headerNibbles_eq (page : BitVec 8) (sub : BitVec 16) (ctl : BitVec 11) :
    headerNibbles page sub ctl = (headerNumbers page.toNat sub.toNat ctl.toNat).map (BitVec.ofNat 4) := by
  have lowest (i : Nat) := And.intro (toNat_controlBit ctl i) (bitOf_lt ctl.toNat i)
  have subPart {lo n : Nat} (hn : n ≤ 4) : ((sub.extractLsb' lo n).setWidth 4).toNat = sub.toNat / 2 ^ lo % 2 ^ n ∧
      sub.toNat / 2 ^ lo % 2 ^ n < 2 ^ n := by
    rw [BitVec.toNat_setWidth_of_le hn, toNat_extractLsb'_eq]
    exact ⟨rfl, Nat.mod_lt _ (Nat.two_pow_pos n)⟩
  have above {x : BitVec 4} {m k : Nat} := toNat_or_controlBit ctl (x := x) (m := m) (k := k)
  have n0 : (page.extractLsb' 0 4).toNat = page.toNat % 16 := by rw [toNat_extractLsb'_eq]; omega
  have n1 : (page.extractLsb' 4 4).toNat = page.toNat / 16 := by rw [toNat_extractLsb'_eq]; omega
  have n2 : (sub.extractLsb' 0 4).toNat = sub.toNat % 16 := by rw [toNat_extractLsb'_eq]; omega
  have n3 := above (by decide) (subPart (lo := 4) (n := 3) (by decide)) 0
  have n4 : (sub.extractLsb' 8 4).toNat = sub.toNat / 256 % 16 := toNat_extractLsb'_eq sub 8 4
  have n5 := above (by decide) (above (by decide) (subPart (lo := 12) (n := 2) (by decide)) 1) 2
  have n6 := above (by decide) (above (by decide) (above (k := 1) (by decide) (lowest 3) 4) 5) 6
  have n7 := above (by decide) (above (by decide) (above (k := 1) (by decide) (lowest 7) 8) 9) 10
  have digit {x : BitVec 4} {n : Nat} {l : List (BitVec 4)} {ns : List Nat} (h : x.toNat = n)
      (hl : l = ns.map (BitVec.ofNat 4)) : x :: l = (n :: ns).map (BitVec.ofNat 4) := by
    rw [List.map_cons, eq_ofNat_of_toNat h, hl]
  exact digit n0 (digit n1 (digit n2 (digit n3.1 (digit n4 (digit n5.1 (digit n6.1 (digit n7.1 rfl)))))))

/-- HDR: the byte of header nibble N(j) (R143). -/
theorem getD_recordBytes_hdr_nibble (s : State) {j : Nat} (hj : j < 8) :
    (recordBytes .hdr s).getD (2 + j) 0 =
      h84e (BitVec.ofNat 4 ((headerNumbers s.page.toNat s.sub.toNat s.ctl.toNat).getD j 0)) := by
  have hlen : (headerNumbers s.page.toNat s.sub.toNat s.ctl.toNat).length = 8 := rfl
  rw [Nat.add_comm, getD_recordBytes_payload, payloadBytes, hdrPayload, headerNibbles_eq, List.map_map,
    List.getD_append _ _ _ _ (by simpa [hlen] using hj)]
  simp [List.getD_eq_getElem?_getD, hlen, hj]

/-- HDR: a character with odd parity (R143). -/
theorem getD_recordBytes_hdr_text (s : State) {i : Nat} (hlo : 8 ≤ i) (hhi : i < 40) :
    (recordBytes .hdr s).getD (i + 2) 0 = oddParity (s.pb.read i) := by
  have hlen : ((headerNibbles s.page s.sub s.ctl).map h84e).length = 8 := rfl
  rw [getD_recordBytes_payload, payloadBytes, hdrPayload, List.getD_append_right _ _ _ _ (by omega), hlen,
    getD_map_load _ _ (by omega), Nat.add_sub_of_le hlo]

/-- Settles O46: the eight nibble bytes by R144 in numbers, and the characters. -/
theorem hdrRecordCarriesHeaderNibbles : Obligations.HdrRecordCarriesHeaderNibbles := by
  unfold Obligations.HdrRecordCarriesHeaderNibbles
  exact fun s => ⟨fun j hj => getD_recordBytes_hdr_nibble s hj, fun i hlo hhi => getD_recordBytes_hdr_text s hlo hhi⟩

/-! ### What a record depends on (R150) -/

/-- A forced template is legal and is the one that SER uses (R139). -/
theorem tselLegal_number (t : Template) : tselLegal t.number = true := by cases t <;> rfl

theorem serTemplate_number (t : Template) (s : State) : serTemplate t.number s = some t := by cases t <;> rfl

/-- A SER with a template completes and appends the framed record (R149). -/
theorem exec_ser_of_template {tsel : BitVec 3} {s : State} {t : Template} (hlegal : tselLegal tsel = true)
    (ht : serTemplate tsel s = some t) :
    exec (.ser tsel) s = .next (finished 0 (t.number.setWidth 32)
      { s with sout := s.sout ++ frameBytes (wraps s) (recordBytes t s) }) := by
  rw [exec, execSer, if_pos hlegal, ht]
  rfl

theorem oddParity_congr {b c : Byte} (h : b &&& 0x7F = c &&& 0x7F) : oddParity b = oddParity c := by
  rw [← oddParity_of_dataBits, h, oddParity_of_dataBits]

theorem lowNibble_congr {b c : Byte} (h : b &&& 0x0F = c &&& 0x0F) : lowNibble b = lowNibble c := by
  have hcut (x : Byte) : lowNibble (x &&& 0x0F) = lowNibble x := by
    rw [lowNibble, BitVec.extractLsb'_and]
    exact BitVec.and_allOnes
  rw [← hcut, h, hcut]

/-- Bytes of PB that are coded one by one depend on what the coding reads of each. -/
theorem map_load_congr {f : Byte → Byte} {m m' : Memory} {a n : Nat}
    (h : ∀ i < n, f (m.read (a + i)) = f (m'.read (a + i))) : (m.load a n).map f = (m'.load a n).map f := by
  rw [Memory.load, Memory.load, List.map_map, List.map_map]
  exact List.map_congr_left fun i hi => h i (List.mem_range.1 hi)

/-- The value of a slot is that of the low six bits of its bytes. -/
theorem tripletAt_congr {m m' : Memory} {k : Nat}
    (h : ∀ i < 3, m.read (slotBase k + i) &&& 0x3F = m'.read (slotBase k + i) &&& 0x3F) :
    tripletAt m k = tripletAt m' k := by
  have h0 : m.read (slotBase k) &&& 0x3F = m'.read (slotBase k) &&& 0x3F := h 0 (by decide)
  rw [tripletAt, tripletAt, tripletOfBytes, tripletOfBytes, h0, h 1 (by decide), h 2 (by decide)]

section
variable {m m' : Memory}

theorem rowPayload_congr (h : ∀ i < 40, m.read i &&& 0x7F = m'.read i &&& 0x7F) : rowPayload m = rowPayload m' :=
  map_load_congr fun i hi => oddParity_congr (h (0 + i) (by rwa [Nat.zero_add]))

theorem hdrPayload_congr (page : BitVec 8) (sub : BitVec 16) (ctl : BitVec 11)
    (h : ∀ i < 40, m.read i &&& 0x7F = m'.read i &&& 0x7F) :
    hdrPayload page sub ctl m = hdrPayload page sub ctl m' := by
  rw [hdrPayload, hdrPayload, map_load_congr fun i hi => oddParity_congr (h (8 + i) (by omega))]

theorem tripPayload_congr
    (h : ∀ i < 40, m.read i &&& carriedBits .trip i = m'.read i &&& carriedBits .trip i) :
    tripPayload m = tripPayload m' := by
  have hslot (k : Nat) (hk : k < 13) : tripletAt m k = tripletAt m' k := tripletAt_congr fun i hi => by
    have hbyte := h (slotBase k + i) (by rw [slotBase]; omega)
    rwa [carriedBits, if_neg (by rw [slotBase]; omega)] at hbyte
  rw [tripPayload, tripPayload, lowNibble_congr (h 0 (by decide))]
  refine congrArg _ (List.flatMap_congr fun k hk => ?_)
  rw [hslot k (List.mem_range.1 hk)]

theorem linkPayload_congr
    (h : ∀ i < 40, m.read i &&& carriedBits .link i = m'.read i &&& carriedBits .link i) :
    linkPayload m = linkPayload m' := by
  have hnibbles : (m.load 0 38).map (fun b => h84e (lowNibble b)) =
      (m'.load 0 38).map fun b => h84e (lowNibble b) := map_load_congr fun i hi => by
    have hbyte := h (0 + i) (by omega)
    rw [carriedBits, if_pos (by omega)] at hbyte
    rw [lowNibble_congr hbyte]
  have htail : m.load 38 2 = m'.load 38 2 := List.map_congr_left fun i hi => by
    rw [List.mem_range] at hi
    have hbyte := h (38 + i) (by omega)
    rw [carriedBits, if_neg (by omega)] at hbyte
    exact BitVec.and_allOnes.symm.trans (hbyte.trans BitVec.and_allOnes)
  exact congrArg₂ List.append hnibbles htail

end

/-- Every template reads a PB byte only under its mask, PAGE, SUB and CTL as they are. -/
theorem payloadBytes_congr {t : Template} {s : State} {m : Memory}
    (h : ∀ i < 40, m.read i &&& carriedBits t i = s.pb.read i &&& carriedBits t i) :
    payloadBytes t { s with pb := m } = payloadBytes t s := by
  cases t with
  | hdr => exact hdrPayload_congr s.page s.sub s.ctl h
  | row => exact rowPayload_congr h
  | trip => exact tripPayload_congr h
  | link => exact linkPayload_congr h

/-- Settles O49: a forced template completes; the address bytes do not read PB, and the payload reads it under the
template's mask. -/
theorem serMasksAndNeverRefusesAValue : Obligations.SerMasksAndNeverRefusesAValue := by
  unfold Obligations.SerMasksAndNeverRefusesAValue
  refine ⟨fun t s => ⟨_, exec_ser_of_template (tselLegal_number t) (serTemplate_number t s), rfl, rfl⟩,
    fun t s m h => ?masked⟩
  case masked => rw [recordBytes, recordBytes, payloadBytes_congr h]

end Sys2Proof.Proofs
end

section
/-! Proofs, spec/45_serializer.md R151 to R154, R159 and R162. SDROP; the template that DESER resolves, forced or by the
mux; and the two ends of a DESER of a record in SIN: dropped for its address, or accepted with what its template makes
of the payload. ROW and the abandoned payload are the two that need nothing more. -/

namespace Sys2Proof.Proofs

open Sys2Proof Sys2Proof.Machine Sys2Proof.Laws

/-! ### SDROP (R162) -/

/-- A record's length of bytes is removed, whatever they are. -/
theorem exec_sdrop_of_le {s : State} (h : streamLen s ≤ s.sin.length) :
    exec .sdrop s = .next (finished 0 0 { s with sin := s.sin.drop (streamLen s) }) := by
  rw [exec, execSdrop, if_neg (Nat.not_lt.2 h), complete_eq_finished]
  rfl

theorem exec_sdrop_of_lt {s : State} (h : s.sin.length < streamLen s) : exec .sdrop s = .next (faulted 6 s) := by
  rw [exec, execSdrop, if_pos h]
  rfl

/-- Settles O59: the two cases of the length of SIN, and the reserved bits. -/
theorem sdropResult : Obligations.SdropResult := by
  unfold Obligations.SdropResult
  simp only [← streamLen_eq]
  exact ⟨fun s h => exec_sdrop_of_le h, fun s h => exec_sdrop_of_lt h,
    refusesReserved_of_row .sdrop (by decide) BitVec.and_self⟩

/-! ### Template resolution (R153) -/

/-- The packets, and for packet 27 the designation codes, that the mux gives to a template (R138). -/
def muxSelects (t : Template) (pkt dc : Nat) : Prop :=
  match t with
  | .hdr => pkt = 0
  | .row => 1 ≤ pkt ∧ pkt ≤ 24
  | .trip => pkt = 26 ∨ pkt = 28 ∨ (pkt = 27 ∧ 4 ≤ dc)
  | .link => pkt = 27 ∧ dc ≤ 3

theorem muxSelects_of_mux {pkt : BitVec 5} {dc : BitVec 4} {t : Template} (h : mux pkt dc = some t) :
    muxSelects t pkt.toNat dc.toNat := by
  rw [muxChoosesByPacketAndDesignation pkt dc] at h
  split_ifs at h with hhdr hrow htrip hlink htrip27 <;> cases h
  · exact hhdr
  · exact hrow
  · exact htrip.imp id .inl
  · exact hlink
  · exact .inr (.inr htrip27)

theorem mux_of_muxSelects {pkt : BitVec 5} {dc : BitVec 4} {t : Template} (h : muxSelects t pkt.toNat dc.toNat) :
    mux pkt dc = some t := by
  rw [muxChoosesByPacketAndDesignation pkt dc]
  cases t with
  | hdr => exact if_pos h
  | row =>
    obtain ⟨hlo, hhi⟩ := h
    rw [if_neg (by omega), if_pos ⟨hlo, hhi⟩]
  | trip =>
    rcases h with h | h | ⟨h, hdc⟩
    · rw [if_neg (by omega), if_neg (by omega), if_pos (.inl h)]
    · rw [if_neg (by omega), if_neg (by omega), if_pos (.inr h)]
    · rw [if_neg (by omega), if_neg (by omega), if_neg (by omega), if_neg (by omega), if_pos ⟨h, hdc⟩]
  | link =>
    obtain ⟨h, hdc⟩ := h
    rw [if_neg (by omega), if_neg (by omega), if_neg (by omega), if_pos ⟨h, hdc⟩]

theorem resolve_number (t : Template) (pkt : BitVec 5) (dcv : Byte) : resolve t.number pkt dcv = some t := by
  cases t <;> rfl

/-- AUTO with a designation byte that is valid, or that the packet does not have. -/
theorem resolve_auto {pkt : BitVec 5} {dcv : Byte} {t : Template} (hdcv : dcv = 0xFF → pkt.toNat ≤ 24)
    (h : muxSelects t pkt.toNat (lowNibble dcv).toNat) : resolve 0 pkt dcv = some t := by
  have hnot : ¬ ((pkt = 26 ∨ pkt = 27 ∨ pkt = 28) ∧ dcv = h84Invalid) := by
    rintro ⟨hpkt, hinv⟩
    have hle := hdcv hinv
    rcases hpkt with rfl | rfl | rfl <;> exact absurd hle (by decide)
  rw [resolve, if_neg (by decide), if_neg hnot]
  exact mux_of_muxSelects h

/-- AUTO with an invalid designation byte: the packets 26 to 28 go the TRIP way. -/
theorem resolve_auto_invalid {pkt : BitVec 5} (h : pkt.toNat = 26 ∨ pkt.toNat = 27 ∨ pkt.toNat = 28) :
    resolve 0 pkt 0xFF = some .trip := by
  have hpkt : pkt = 26 ∨ pkt = 27 ∨ pkt = 28 :=
    h.imp BitVec.eq_of_toNat_eq (.imp BitVec.eq_of_toNat_eq BitVec.eq_of_toNat_eq)
  rw [resolve, if_neg (by decide), if_pos ⟨hpkt, rfl⟩]

/-! ### The ends of a DESER -/

theorem tselLegal_of_lt {tsel : BitVec 3} (h : tsel.toNat < 5) : tselLegal tsel = true := decide_eq_true h

/-- DESER takes a record from the head of SIN and completes with the template `t` and the decoded payload `p`: its flags
and count, ADDR, PAGE, SUB and CTL of a header, and PB with the payload's 40 bytes (R151). -/
def acceptsRecord (tsel : BitVec 3) (s : State) (record rest : List Byte) (t : Template) (p : Piece) : Prop :=
  ∃ m : Memory, exec (.deser tsel) s = .next (deserialized p.flags p.count t.number.toNat (storeHeader t record
      { s with sin := rest, addr := recordAddr record, pb := m })) ∧
    (∀ i < 40, m.read i = p.bytes.getD i 0) ∧ ∀ a, 40 ≤ a → m.read a = s.pb.read a

section
variable {tsel : BitVec 3} {s : State} {record rest : List Byte} (hrecord : holdsRecord s record rest)
include hrecord

/-- A record with an invalid address (R152). -/
theorem exec_deser_of_invalid (htsel : tsel.toNat < 5) (haddr : ¬ addressValid record) :
    exec (.deser tsel) s = .next (deserialized 0x81 1 0 { s with sin := rest }) := by
  obtain ⟨hhead, htake⟩ := headRecord_of_holds hrecord
  rw [exec, execDeser, if_pos (tselLegal_of_lt htsel), hhead]
  simp only [decodeAddress_of_invalid haddr]
  rw [dropRecord, htake, finishDeser_eq _ _ _ _ (by decide)]
  rfl

/-- A record with a valid address and a template is accepted with what the template makes of its payload (R151). -/
theorem accepts_of_resolve (hwf : s.pb.wf = true) (htsel : tsel.toNat < 5) (haddr : addressValid record)
    {t : Template} (ht : resolve tsel (addrPkt (recordAddr record)) (nibbleOf record 2) = some t) {p : Piece}
    (hp : decodePayload t (addrPkt (recordAddr record)) record = p) :
    acceptsRecord tsel s record rest t p := by
  obtain ⟨hhead, htake⟩ := headRecord_of_holds hrecord
  have hlen : p.bytes.length = 40 := hp ▸ length_decodePayload t (addrPkt (recordAddr record)) record
  have hcount : p.count ≤ 13 := hp ▸ count_decodePayload_le t (addrPkt (recordAddr record)) record
  have hread := read_store hwf p.bytes (a := 0) (by omega)
  refine ⟨s.pb.store 0 p.bytes, ?_, fun i hi => ?_, fun a ha => ?_⟩
  · rw [exec, execDeser, if_pos (tselLegal_of_lt htsel), hhead]
    simp only [(decodeAddress_of_valid haddr).1]
    rw [show h84d (rawAt record 2) = nibbleOf record 2 from rfl, ht]
    simp only [acceptRecord]
    rw [htake, hp, finishDeser_eq _ _ _ _ hcount]
    rfl
  · rw [hread, if_pos (by omega), Nat.sub_zero]
  · rw [hread, if_neg (by omega)]

/-- A forced template, or AUTO for a packet and designation code that the mux gives to it. -/
theorem accepts_of_selected (hwf : s.pb.wf = true) (haddr : addressValid record) {t : Template}
    (ht : tsel = t.number ∨ (tsel = 0 ∧ (nibbleOf record 2 = 0xFF → recordPkt record ≤ 24) ∧
      muxSelects t (recordPkt record) (lowNibble (nibbleOf record 2)).toNat)) {p : Piece}
    (hp : decodePayload t (addrPkt (recordAddr record)) record = p) :
    acceptsRecord tsel s record rest t p := by
  have hpkt := (decodeAddress_of_valid haddr).2
  rcases ht with rfl | ⟨rfl, hdcv, hmux⟩
  · exact accepts_of_resolve hrecord hwf (of_decide_eq_true (tselLegal_number t)) haddr (resolve_number t _ _) hp
  · rw [← hpkt] at hdcv hmux
    exact accepts_of_resolve hrecord hwf (by decide) haddr (resolve_auto hdcv hmux) hp

end

/-- Settles O51: the address decides before the template is resolved. -/
theorem invalidAddressDropsTheRecord : Obligations.InvalidAddressDropsTheRecord := by
  unfold Obligations.InvalidAddressDropsTheRecord
  exact fun tsel s record rest htsel hrecord haddr => exec_deser_of_invalid hrecord htsel haddr

/-! ### ROW (R154) -/

theorem getD_map_range {α : Type} (f : Nat → α) {n i : Nat} (hi : i < n) (d : α) :
    ((List.range n).map f).getD i d = f i := by
  simp [hi]

/-- Settles O52: byte i is the record's byte without its parity bit. -/
theorem deserRowResult : Obligations.DeserRowResult := by
  unfold Obligations.DeserRowResult
  intro tsel s record rest hwf hrecord haddr ht
  obtain ⟨m, hexec, hread, hrest⟩ := accepts_of_selected (t := .row) hrecord hwf haddr
    (ht.imp id fun ⟨h0, hlo, hhi⟩ => ⟨h0, fun _ => hhi, hlo, hhi⟩) rfl
  refine ⟨m, hexec, fun i hi => ?byte, hrest⟩
  case byte =>
    rw [hread i hi]
    exact getD_map_range (fun i => stripParity (rawAt record (i + 2))) hi 0

/-! ### An invalid designation byte (R159) -/

theorem decodePayload_of_invalid_designation {t : Template} (ht : t = .trip ∨ t = .link) (pkt : BitVec 5)
    {record : List Byte} (h : nibbleOf record 2 = 0xFF) : decodePayload t pkt record = abandonedPayload := by
  rcases ht with rfl | rfl
  · exact if_pos h
  · exact if_pos h

/-- The flags, the count and the 40 bytes of an abandoned payload. -/
theorem exec_deser_of_abandoned {tsel : BitVec 3} {s : State} {record rest : List Byte} (hwf : s.pb.wf = true)
    (hrecord : holdsRecord s record rest) (htsel : tsel.toNat < 5) (haddr : addressValid record)
    (hdcv : nibbleOf record 2 = 0xFF) {t : Template} (ht : t = .trip ∨ t = .link)
    (hres : resolve tsel (addrPkt (recordAddr record)) 0xFF = some t) :
    ∃ m : Memory, exec (.deser tsel) s = .next (deserialized 0x41 1 t.number.toNat { s with
        sin := rest, addr := recordAddr record, pb := m }) ∧
      m.read 0 = 0xFF ∧ (∀ i, 1 ≤ i → i < 40 → m.read i = 0) ∧ ∀ a, 40 ≤ a → m.read a = s.pb.read a := by
  obtain ⟨m, hexec, hread, hrest⟩ := accepts_of_resolve hrecord hwf htsel haddr (hdcv.symm ▸ hres)
    (decodePayload_of_invalid_designation ht _ hdcv)
  have hstore (s' : State) : storeHeader t record s' = s' := by rcases ht with rfl | rfl <;> rfl
  rw [hstore] at hexec
  refine ⟨m, hexec, hread 0 (by decide), fun i hlo hhi => ?_, hrest⟩
  rw [hread i hhi, abandonedPayload, ← Nat.sub_add_cancel hlo, List.getD_cons_succ, List.getD_replicate _ (by omega)]

/-- Settles O56: the two forced templates, and AUTO, which resolves to TRIP. -/
theorem invalidDesignationAbandonsThePayload : Obligations.InvalidDesignationAbandonsThePayload := by
  unfold Obligations.InvalidDesignationAbandonsThePayload
  rintro tsel s record rest hwf hrecord haddr hdcv (rfl | rfl | ⟨rfl, hpkt⟩)
  case inl =>
    rw [if_neg (by decide)]
    exact exec_deser_of_abandoned hwf hrecord (by decide) haddr hdcv (.inl rfl) (resolve_number .trip _ _)
  case inr.inl =>
    rw [if_pos rfl]
    exact exec_deser_of_abandoned hwf hrecord (by decide) haddr hdcv (.inr rfl) (resolve_number .link _ _)
  case inr.inr =>
    rw [← (decodeAddress_of_valid haddr).2] at hpkt
    rw [if_neg (by decide)]
    exact exec_deser_of_abandoned hwf hrecord (by decide) haddr hdcv (.inl rfl) (resolve_auto_invalid hpkt)

end Sys2Proof.Proofs
end

section
/-! Proofs, spec/45_serializer.md R155 to R157 and R161. The decoded payloads of HDR, TRIP and LINK: each is a join of
parts that are substituted or not, so that its count is the number of bad parts and its flags are theirs, and each
part's bytes stand at a place of their own. -/

namespace Sys2Proof.Proofs

open Sys2Proof Sys2Proof.Machine Sys2Proof.Laws

/-! ### Joined parts -/

/-- Parts that count one when they are bad and nothing otherwise. -/
theorem joinPieces_map_count {α : Type} {F : α → Piece} {bad : α → Bool}
    (h : ∀ x, (F x).count = if bad x then 1 else 0) (l : List α) : (joinPieces (l.map F)).count = l.countP bad := by
  induction l with
  | nil => rfl
  | cons x rest ih => rw [List.map_cons, joinPieces, append_count, ih, h, List.countP_cons, Nat.add_comm]

/-- A flag raised by either of two parts. -/
theorem ite_or_ite (p q : Bool) (f : BitVec 8) :
    ((if p then f else 0) ||| (if q then f else 0)) = if p || q then f else 0 := by
  cases p <;> cases q <;> simp

theorem ite_any {α : Type} (l : List α) (p : α → Bool) (f : BitVec 8) :
    (if l.any p then f else 0) = if l.countP p = 0 then 0 else f := by
  by_cases h : l.countP p = 0
  · rw [if_pos h, if_neg (by simpa [List.countP_eq_zero] using h)]
  · rw [if_neg h, if_pos (by simpa [List.countP_eq_zero] using h)]

/-- Parts that raise `f` when they are bad and `g` when they are noted: the join raises each when one part does. -/
theorem joinPieces_map_flags {α : Type} {F : α → Piece} {bad noted : α → Bool} {f g : BitVec 8}
    (h : ∀ x, (F x).flags = (if bad x then f else 0) ||| (if noted x then g else 0)) (l : List α) :
    (joinPieces (l.map F)).flags = (if l.any bad then f else 0) ||| (if l.any noted then g else 0) := by
  induction l with
  | nil => exact BitVec.or_zero.symm
  | cons x rest ih =>
    rw [List.map_cons, joinPieces, append_flags, ih, h, List.any_cons, List.any_cons, ← ite_or_ite, ← ite_or_ite]
    ac_rfl

/-! ### HDR (R155) -/

/-- An invalid nibble is zeroed, flagged and counted. -/
theorem decodeNibble_eq (b : Byte) :
    decodeNibble b = if h84d b = 0xFF then ⟨[0], 0x11, 1⟩ else ⟨[h84d b], 0, 0⟩ := rfl

theorem decodeNibble_flags (b : Byte) : (decodeNibble b).flags = if h84d b = 0xFF then 0x11 else 0 := by
  rw [decodeNibble_eq]
  split_ifs <;> rfl

theorem decodeNibble_cases (b : Byte) : ((decodeNibble b).count = 0 ∧ (decodeNibble b).flags = 0) ∨
    ((decodeNibble b).count = 1 ∧ (decodeNibble b).flags = 0x11) := by
  rw [decodeNibble_eq]
  split_ifs
  · exact .inr ⟨rfl, rfl⟩
  · exact .inl ⟨rfl, rfl⟩

theorem decodeNibble_count (b : Byte) : (decodeNibble b).count = if h84d b = 0xFF then 1 else 0 := by
  rw [decodeNibble_eq]
  split_ifs <;> rfl

theorem decodeNibble_bytes (b : Byte) : (decodeNibble b).bytes = [if h84d b = 0xFF then 0 else h84d b] := by
  rw [decodeNibble_eq]
  split_ifs <;> rfl

theorem decodeHeader_count (record : List Byte) :
    (decodeHeader record).count = (List.range 8).countP fun j => nibbleOf record (2 + j) == 0xFF :=
  joinPieces_map_count (F := fun j => decodeNibble (rawAt record (2 + j))) (fun j => by
    rw [decodeNibble_count, nibbleOf, rawAt]
    simp only [beq_iff_eq]) _

theorem decodeHeader_flags (record : List Byte) :
    (decodeHeader record).flags = if (decodeHeader record).count = 0 then 0 else 0x11 :=
  joinPieces_flags _ _ fun _ hp => by
    obtain ⟨j, -, rfl⟩ := List.mem_map.1 hp
    exact decodeNibble_cases _

/-- The digit of header nibble j is a nibble. -/
theorem headerDigit_lt (record : List Byte) (j : Nat) : headerDigit record j < 16 := by
  rw [headerDigit]
  split_ifs with h
  · decide
  · exact nibbleOf_lt h

theorem toNat_headerNibble (record : List Byte) {j : Nat} (hj : j < 8) :
    (headerNibble record j).toNat = headerDigit record j := by
  have hbyte : (decodeHeader record).bytes.getD j 0 =
      if nibbleOf record (2 + j) = 0xFF then 0 else nibbleOf record (2 + j) := by
    have h := joinPieces_getD (fun j => decodeNibble (rawAt record (2 + j))) 1 8 j 0
      (fun _ => length_decodeNibble _) hj (by decide)
    rw [decodeNibble_bytes, Nat.one_mul, Nat.add_zero] at h
    exact h
  rw [headerNibble, hbyte, headerDigit]
  split_ifs with h
  · rfl
  · exact lowNibble_toNat (nibbleOf_lt h)

section
variable (record : List Byte)

theorem toNat_setWidth_headerNibble {w j : Nat} (hw : 4 ≤ w) (hj : j < 8) :
    ((headerNibble record j).setWidth w).toNat = headerDigit record j := by
  rw [BitVec.toNat_setWidth_of_le hw, toNat_headerNibble record hj]

theorem headerPage_eq : headerPage record = BitVec.ofNat 8 (headerDigit record 0 + 16 * headerDigit record 1) := by
  have n0 := headerDigit_lt record 0
  have n1 := headerDigit_lt record 1
  have whole {j : Nat} := toNat_setWidth_headerNibble record (w := 8) (j := j) (by decide)
  exact eq_ofNat_of_toNat (toNat_pack (k := 4) (whole (by decide)) (whole (by decide)) n0 (by omega))

theorem headerSub_eq : headerSub record = BitVec.ofNat 16 (headerDigit record 2 + 16 * (headerDigit record 3 % 8) +
    256 * headerDigit record 4 + 4096 * (headerDigit record 5 % 4)) := by
  have n2 := headerDigit_lt record 2
  have n4 := headerDigit_lt record 4
  have whole {j : Nat} := toNat_setWidth_headerNibble record (w := 16) (j := j) (by decide)
  have low3 : ((headerNibble record 3 &&& 7).setWidth 16).toNat = headerDigit record 3 % 8 := by
    rw [BitVec.toNat_setWidth_of_le (by decide), ← toNat_headerNibble record (by decide)]
    exact Nat.and_two_pow_sub_one_eq_mod _ 3
  have low5 : ((headerNibble record 5 &&& 3).setWidth 16).toNat = headerDigit record 5 % 4 := by
    rw [BitVec.toNat_setWidth_of_le (by decide), ← toNat_headerNibble record (by decide)]
    exact Nat.and_two_pow_sub_one_eq_mod _ 2
  have h23 := toNat_pack (k := 4) (whole (j := 2) (by decide)) low3 n2 (by omega)
  have h234 := toNat_pack (k := 8) h23 (whole (j := 4) (by decide)) (by omega) (by omega)
  exact eq_ofNat_of_toNat (toNat_pack (k := 12) h234 low5 (by omega) (by omega))

theorem headerCtl_eq : headerCtl record = BitVec.ofNat 11 (bitOf (headerDigit record 3) 3 +
    2 * bitOf (headerDigit record 5) 2 + 4 * bitOf (headerDigit record 5) 3 + 8 * headerDigit record 6 +
    128 * headerDigit record 7) := by
  have b33 := bitOf_lt (headerDigit record 3) 3
  have b52 := bitOf_lt (headerDigit record 5) 2
  have b53 := bitOf_lt (headerDigit record 5) 3
  have n6 := headerDigit_lt record 6
  have n7 := headerDigit_lt record 7
  have whole {j : Nat} := toNat_setWidth_headerNibble record (w := 11) (j := j) (by decide)
  have bit {j : Nat} (hj : j < 8) (i : Nat) :
      (((headerNibble record j).extractLsb' i 1).setWidth 11).toNat = bitOf (headerDigit record j) i := by
    rw [BitVec.toNat_setWidth_of_le (by decide), toNat_extractLsb'_eq, toNat_headerNibble record hj, bitOf, pow_one]
  have h2 := toNat_pack (k := 1) (bit (j := 3) (by decide) 3) (bit (j := 5) (by decide) 2) b33 (by omega)
  have h3 := toNat_pack (k := 2) h2 (bit (j := 5) (by decide) 3) (by omega) (by omega)
  have h4 := toNat_pack (k := 3) h3 (whole (j := 6) (by decide)) (by omega) (by omega)
  exact eq_ofNat_of_toNat (toNat_pack (k := 7) h4 (whole (j := 7) (by decide)) (by omega) (by omega))

end

/-- Settles O53: the header's registers as sums of the digits, the count and the flags of the eight nibbles. -/
theorem deserHdrResult : Obligations.DeserHdrResult := by
  unfold Obligations.DeserHdrResult
  intro tsel s record rest hwf hrecord haddr ht bad n
  obtain ⟨m, hexec, hread, hrest⟩ := accepts_of_selected (t := .hdr) hrecord hwf haddr
    (ht.imp id fun ⟨h0, hpkt⟩ => ⟨h0, fun _ => by omega, hpkt⟩) rfl
  have hcount : (decodePayload .hdr (addrPkt (recordAddr record)) record).count = bad := decodeHeader_count record
  have hflags : (decodePayload .hdr (addrPkt (recordAddr record)) record).flags = if bad = 0 then 0 else 0x11 :=
    hcount ▸ decodeHeader_flags record
  rw [hcount, hflags, storeHeader, headerPage_eq, headerSub_eq, headerCtl_eq] at hexec
  refine ⟨m, hexec, fun i hi => ?space, fun i hlo hhi => ?text, hrest⟩
  case space =>
    rw [hread i (by omega)]
    exact (List.getD_append _ _ _ _ (by simpa using hi)).trans (List.getD_replicate _ hi)
  case text =>
    rw [hread i hhi]
    refine (List.getD_append_right _ _ _ _ (by simpa using hlo)).trans ?_
    rw [List.length_replicate, getD_map_range _ (by omega), show i - 8 + 10 = i + 2 by omega]
    rfl

/-! ### TRIP (R156) -/

/-- A result with bit 31 is the error value and has no other bit (R88). -/
theorem h24dec_of_bit31 {c : BitVec 24} (h : (h24dec c).getLsbD 31 = true) : h24dec c = 0x80000000 := by
  rcases hcor : h24Cor (h24Syndrome c) with ⟨m, _ | _ | _⟩
  case ok => simp [h24dec, hcor] at h
  case corrected => simp [h24dec, hcor] at h
  case uncorrectable =>
    rw [h24dec, hcor]
    rfl

section
variable (pkt : BitVec 5) {c : BitVec 24}

/-- An uncorrectable codeword is substituted, flagged and counted. -/
theorem decodeTriplet_of_bad (h : (h24dec c).getLsbD 31 = true) : decodeTriplet pkt c =
    ⟨bytesOfTriplet (if pkt = 26 then noopTriplet else 0), if pkt = 26 then 0x0C else 0x14, 1⟩ := by
  rw [decodeTriplet, if_pos h]
  split_ifs <;> rfl

/-- A codeword that decodes, corrected or not, counts nothing. -/
theorem decodeTriplet_of_good (h : (h24dec c).getLsbD 31 = false) : decodeTriplet pkt c =
    ⟨bytesOfTriplet ((h24dec c).extractLsb' 0 18), if (h24dec c).getLsbD 30 then 0x02 else 0, 0⟩ := by
  rw [decodeTriplet, if_neg (Bool.eq_false_iff.1 h)]
  rfl

theorem decodeTriplet_count (c : BitVec 24) :
    (decodeTriplet pkt c).count = if (h24dec c).getLsbD 31 then 1 else 0 := by
  cases h : (h24dec c).getLsbD 31 with
  | false => rw [decodeTriplet_of_good pkt h]; rfl
  | true => rw [decodeTriplet_of_bad pkt h]; rfl

theorem decodeTriplet_flags (c : BitVec 24) : (decodeTriplet pkt c).flags =
    (if (h24dec c).getLsbD 31 then (if pkt = 26 then 0x0C else 0x14) else 0) |||
      (if (h24dec c).getLsbD 30 then 0x02 else 0) := by
  cases h : (h24dec c).getLsbD 31 with
  | false =>
    rw [decodeTriplet_of_good pkt h]
    exact BitVec.zero_or.symm
  | true =>
    rw [decodeTriplet_of_bad pkt h, h24dec_of_bit31 h]
    exact BitVec.or_zero.symm

end

/-- The codeword of slot k as the sum of its three bytes. -/
theorem codewordAt_eq (record : List Byte) (k : Nat) : h24dec (codewordAt record k) = tripletResult record k := by
  have wide (b : Byte) : (b.setWidth 24).toNat = b.toNat := BitVec.toNat_setWidth_of_le (by decide)
  have hlow := toNat_pack (k := 8) (wide (rawAt record (3 + 3 * k))) (wide (rawAt record (4 + 3 * k))) (by omega)
    (by omega)
  exact congrArg h24dec (eq_ofNat_of_toNat
    (toNat_pack (k := 16) hlow (wide (rawAt record (5 + 3 * k))) (by omega) (by omega)))

/-- The three bytes of a slot are the groups of its value (R127). -/
theorem getD_bytesOfTriplet (v : BitVec 18) {i : Nat} (hi : i < 3) :
    (bytesOfTriplet v).getD i 0 = BitVec.ofNat 8 (v.toNat / 64 ^ i % 64) := by
  have group (lo : Nat) : ((v.extractLsb' lo 6).setWidth 8) = BitVec.ofNat 8 (v.toNat / 2 ^ lo % 64) :=
    eq_ofNat_of_toNat ((BitVec.toNat_setWidth_of_le (by decide)).trans (toNat_extractLsb'_eq v lo 6))
  interval_cases i
  · exact group 0
  · exact group 6
  · exact group 12

/-- PKT of a valid address, compared as a number. -/
theorem addrPkt_recordAddr_eq_iff {record : List Byte} (haddr : addressValid record) :
    addrPkt (recordAddr record) = 26 ↔ recordPkt record = 26 := by
  rw [← (decodeAddress_of_valid haddr).2, BitVec.toNat_eq]
  rfl

/-- The value of slot k in the words of the statement. -/
theorem decodeTriplet_bytes (record : List Byte) (haddr : addressValid record) (k : Nat) :
    (decodeTriplet (addrPkt (recordAddr record)) (codewordAt record k)).bytes =
      bytesOfTriplet (BitVec.ofNat 18 (tripletValue record k)) := by
  have hresult := codewordAt_eq record k
  unfold tripletValue
  cases h : (tripletResult record k).getLsbD 31 with
  | false =>
    rw [decodeTriplet_of_good _ (hresult.symm ▸ h), hresult, if_neg Bool.false_ne_true]
    exact congrArg bytesOfTriplet (eq_ofNat_of_toNat (by rw [toNat_extractLsb'_eq, pow_zero, Nat.div_one]))
  | true =>
    rw [decodeTriplet_of_bad _ (hresult.symm ▸ h), if_pos rfl]
    simp only [addrPkt_recordAddr_eq_iff haddr]
    split_ifs <;> rfl

theorem tripletValue_lt (record : List Byte) (k : Nat) : tripletValue record k < 2 ^ 18 := by
  unfold tripletValue
  split_ifs
  · decide
  · decide
  · exact Nat.mod_lt _ (by decide)

section
variable {pkt : BitVec 5} {record : List Byte} (hdc : nibbleOf record 2 ≠ 0xFF)
include hdc

/-- TRIP with a valid designation byte (R156). -/
theorem decodePayload_trip : decodePayload .trip pkt record = (cleanPiece [nibbleOf record 2]).append
    (joinPieces ((List.range 13).map fun k => decodeTriplet pkt (codewordAt record k))) := if_neg hdc

theorem decodePayload_trip_count : (decodePayload .trip pkt record).count =
    (List.range 13).countP fun k => (tripletResult record k).getLsbD 31 := by
  rw [decodePayload_trip hdc, append_count, cleanPiece_count, Nat.zero_add]
  exact joinPieces_map_count (fun k => by rw [decodeTriplet_count, codewordAt_eq]) _

theorem decodePayload_trip_flags : (decodePayload .trip pkt record).flags =
    (if ((List.range 13).countP fun k => (tripletResult record k).getLsbD 31) = 0 then 0
      else if pkt = 26 then 0x0C else 0x14) |||
    (if (List.range 13).any fun k => (tripletResult record k).getLsbD 30 then 0x02 else 0) := by
  rw [decodePayload_trip hdc, append_flags, cleanPiece_flags, ← ite_any]
  exact BitVec.zero_or.trans (joinPieces_map_flags (fun k => by rw [decodeTriplet_flags, codewordAt_eq]) _)

theorem decodePayload_trip_getD {k i : Nat} (hk : k < 13) (hi : i < 3) :
    (decodePayload .trip pkt record).bytes.getD (1 + 3 * k + i) 0 =
      (decodeTriplet pkt (codewordAt record k)).bytes.getD i 0 := by
  rw [decodePayload_trip hdc, append_bytes, show 1 + 3 * k + i = 3 * k + i + 1 by omega]
  exact joinPieces_getD _ 3 13 k i (fun _ => length_decodeTriplet _ _) hk hi

end

/-- Settles O54: the count and the flags of the thirteen codewords, and each slot's groups. -/
theorem deserTripResult : Obligations.DeserTripResult := by
  unfold Obligations.DeserTripResult
  intro tsel s record rest hwf hrecord haddr hdc ht bad corrected flags
  obtain ⟨m, hexec, hread, hrest⟩ := accepts_of_selected (t := .trip) hrecord hwf haddr
    (ht.imp id fun ⟨h0, hpkt⟩ => ⟨h0, fun h => absurd h hdc, by
      rwa [muxSelects, lowNibble_toNat (nibbleOf_lt hdc)]⟩) rfl
  have hflags : (decodePayload .trip (addrPkt (recordAddr record)) record).flags = flags := by
    simp only [decodePayload_trip_flags hdc, addrPkt_recordAddr_eq_iff haddr]
    rfl
  rw [decodePayload_trip_count hdc, hflags] at hexec
  have hslot {k i a : Nat} (hk : k < 13) (hi : i < 3) (ha : a = 1 + 3 * k + i) :
      m.read a = BitVec.ofNat 8 (tripletValue record k / 64 ^ i % 64) := by
    rw [ha, hread _ (by omega), decodePayload_trip_getD hdc hk hi, decodeTriplet_bytes record haddr,
      getD_bytesOfTriplet _ hi, BitVec.toNat_ofNat, Nat.mod_eq_of_lt (tripletValue_lt record k)]
  refine ⟨m, hexec, ?designation, fun k hk => ?slot, hrest⟩
  case designation =>
    rw [hread 0 (by decide), decodePayload_trip hdc]
    rfl
  case slot =>
    have hlt := tripletValue_lt record k
    exact ⟨(hslot hk (i := 0) (by decide) rfl).trans (congrArg _ (by omega)),
      (hslot hk (i := 1) (by decide) (by omega)).trans (congrArg _ (by omega)),
      (hslot hk (i := 2) (by decide) (by omega)).trans (congrArg _ (by omega))⟩

/-! ### LINK (R157) -/

theorem linkBad_iff (record : List Byte) (j : Nat) :
    h84Invalid ∈ (List.range 6).map (fun n => h84d (rawAt record (3 + 6 * j + n))) ↔ linkBad record j = true := by
  simp only [linkBad, List.any_eq_true, List.mem_map, beq_iff_eq]
  exact Iff.rfl

/-- A link with an invalid byte is the neutral link. -/
theorem decodeLink_of_bad {record : List Byte} {j : Nat} (h : linkBad record j = true) :
    decodeLink record j = ⟨[0xF, 0xF, 0xF, 0x7, 0xF, 0x3], 0x21, 1⟩ := if_pos ((linkBad_iff record j).2 h)

theorem decodeLink_of_good {record : List Byte} {j : Nat} (h : linkBad record j = false) :
    decodeLink record j = ⟨(List.range 6).map fun n => nibbleOf record (3 + 6 * j + n), 0, 0⟩ :=
  if_neg fun hbad => absurd ((linkBad_iff record j).1 hbad) (Bool.eq_false_iff.1 h)

theorem decodeLink_count (record : List Byte) (j : Nat) :
    (decodeLink record j).count = if linkBad record j then 1 else 0 := by
  cases h : linkBad record j with
  | false => rw [decodeLink_of_good h]; rfl
  | true => rw [decodeLink_of_bad h]; rfl

theorem decodeLink_cases (record : List Byte) (j : Nat) :
    ((decodeLink record j).count = 0 ∧ (decodeLink record j).flags = 0) ∨
      ((decodeLink record j).count = 1 ∧ (decodeLink record j).flags = 0x21) := by
  cases h : linkBad record j with
  | false => rw [decodeLink_of_good h]; exact .inl ⟨rfl, rfl⟩
  | true => rw [decodeLink_of_bad h]; exact .inr ⟨rfl, rfl⟩

theorem length_links (record : List Byte) :
    (joinPieces ((List.range 6).map (decodeLink record))).bytes.length = 36 := by
  rw [joinPieces_bytes, List.flatMap_map]
  exact length_flatMap_range _ 6 6 fun _ => length_decodeLink _ _

theorem getD_decodeLink (record : List Byte) (j : Nat) {n : Nat} (hn : n < 6) :
    (decodeLink record j).bytes.getD n 0 = if linkBad record j then [0xF, 0xF, 0xF, 0x7, 0xF, 0x3].getD n 0
      else nibbleOf record (3 + 6 * j + n) := by
  cases h : linkBad record j with
  | false =>
    rw [decodeLink_of_good h]
    exact getD_map_range (fun n => nibbleOf record (3 + 6 * j + n)) hn 0
  | true =>
    rw [decodeLink_of_bad h]
    rfl

section
variable {pkt : BitVec 5} {record : List Byte} (hdc : nibbleOf record 2 ≠ 0xFF)
include hdc

/-- LINK with a valid designation byte (R157). -/
theorem decodePayload_link : decodePayload .link pkt record = (cleanPiece [nibbleOf record 2]).append
    ((joinPieces ((List.range 6).map (decodeLink record))).append ((decodeNibble (rawAt record 39)).append
      (cleanPiece [rawAt record 40, rawAt record 41]))) := if_neg hdc

theorem decodePayload_link_count : (decodePayload .link pkt record).count =
    ((List.range 6).countP fun j => linkBad record j) + if nibbleOf record 39 = 0xFF then 1 else 0 := by
  have htail : (decodeNibble (rawAt record 39)).count = if nibbleOf record 39 = 0xFF then 1 else 0 :=
    decodeNibble_count (rawAt record 39)
  rw [decodePayload_link hdc, append_count, append_count, append_count, cleanPiece_count, cleanPiece_count,
    joinPieces_map_count (decodeLink_count record), htail, Nat.zero_add, Nat.add_zero]

theorem decodePayload_link_flags : (decodePayload .link pkt record).flags =
    (if ((List.range 6).countP fun j => linkBad record j) = 0 then 0 else 0x21) |||
      (if nibbleOf record 39 = 0xFF then 0x11 else 0) := by
  have htail : (decodeNibble (rawAt record 39)).flags = if nibbleOf record 39 = 0xFF then 0x11 else 0 :=
    decodeNibble_flags (rawAt record 39)
  have hlinks := joinPieces_flags ((List.range 6).map (decodeLink record)) 0x21 fun _ hp => by
    obtain ⟨j, -, rfl⟩ := List.mem_map.1 hp
    exact decodeLink_cases record j
  rw [joinPieces_map_count (decodeLink_count record)] at hlinks
  rw [decodePayload_link hdc, append_flags, append_flags, append_flags, hlinks, htail]
  exact BitVec.zero_or.trans (congrArg _ BitVec.or_zero)

theorem decodePayload_link_bytes : (decodePayload .link pkt record).bytes = nibbleOf record 2 ::
    ((joinPieces ((List.range 6).map (decodeLink record))).bytes ++
      [if nibbleOf record 39 = 0xFF then 0 else nibbleOf record 39, rawAt record 40, rawAt record 41]) := by
  rw [decodePayload_link hdc, append_bytes, append_bytes, append_bytes, decodeNibble_bytes]
  rfl

theorem decodePayload_link_getD {j n : Nat} (hj : j < 6) (hn : n < 6) :
    (decodePayload .link pkt record).bytes.getD (1 + 6 * j + n) 0 = (decodeLink record j).bytes.getD n 0 := by
  rw [decodePayload_link_bytes hdc, show 1 + 6 * j + n = 6 * j + n + 1 by omega, List.getD_cons_succ,
    List.getD_append _ _ _ _ (by rw [length_links]; omega)]
  exact joinPieces_getD _ 6 6 j n (fun _ => length_decodeLink _ _) hj hn

/-- The three bytes after the links. -/
theorem decodePayload_link_tail (i : Nat) : (decodePayload .link pkt record).bytes.getD (37 + i) 0 =
    [if nibbleOf record 39 = 0xFF then 0 else nibbleOf record 39, rawAt record 40, rawAt record 41].getD i 0 := by
  rw [decodePayload_link_bytes hdc, show 37 + i = 36 + i + 1 by omega, List.getD_cons_succ,
    List.getD_append_right _ _ _ _ (by rw [length_links]; omega), length_links, Nat.add_sub_cancel_left]

end

/-- Settles O55: the links and the tail counted and flagged apart, the six links byte by byte, then the tail. -/
theorem deserLinkResult : Obligations.DeserLinkResult := by
  unfold Obligations.DeserLinkResult
  intro tsel s record rest hwf hrecord haddr hdc ht badLinks badTail flags
  obtain ⟨m, hexec, hread, hrest⟩ := accepts_of_selected (t := .link) hrecord hwf haddr
    (ht.imp id fun ⟨h0, hpkt⟩ => ⟨h0, fun h => absurd h hdc, by
      rwa [muxSelects, lowNibble_toNat (nibbleOf_lt hdc)]⟩) rfl
  have htail : (if badTail = 0 then 0 else 0x11 : BitVec 8) = if nibbleOf record 39 = 0xFF then 0x11 else 0 := by
    by_cases h : nibbleOf record 39 = 0xFF
    · rw [if_pos h, show badTail = 1 from if_pos h]
      rfl
    · rw [if_neg h, show badTail = 0 from if_neg h]
      rfl
  have hflags : (decodePayload .link (addrPkt (recordAddr record)) record).flags = flags := by
    rw [decodePayload_link_flags hdc, ← htail]
  rw [decodePayload_link_count hdc, hflags] at hexec
  have tail (i : Nat) (hi : i < 3) := (hread (37 + i) (by omega)).trans (decodePayload_link_tail hdc i)
  refine ⟨m, hexec, ?designation, fun j hj n hn => ?link, tail 0 (by decide), tail 1 (by decide),
    tail 2 (by decide), hrest⟩
  case designation => rw [hread 0 (by decide), decodePayload_link_bytes hdc, List.getD_cons_zero]
  case link => rw [hread _ (by omega), decodePayload_link_getD hdc hj hn, getD_decodeLink record j hn]

end Sys2Proof.Proofs
end

section
/-! Proofs, spec/45_serializer.md R163 to R165. What DESER makes of a record that SER built, template by template: every
nibble and codeword of it is valid, so the results of DESER hold with nothing substituted, and each byte comes back
under its template's mask. -/

namespace Sys2Proof.Proofs

open Sys2Proof Sys2Proof.Machine Sys2Proof.Laws

/-! ### The record is valid and selects its own template -/

theorem addressValid_recordBytes (t : Template) (s : State) : addressValid (recordBytes t s) :=
  ⟨(h84d_h84e (addressNibble0 s.addr)).2, (h84d_h84e (addressNibble1 s.addr)).2⟩

theorem recordPkt_recordBytes (t : Template) (s : State) : recordPkt (recordBytes t s) = (addrPkt s.addr).toNat := by
  rw [← (decodeAddress_of_valid (addressValid_recordBytes t s)).2, recordAddr_recordBytes]

theorem eq_number_of_forced {tsel : BitVec 3} {t : Template} (h : forced tsel = some t) : tsel = t.number := by
  unfold forced at h
  split_ifs at h <;> (cases h; assumption)

/-- The template of a SER is forced, or the mux gives it to the packet (R139, R149). -/
theorem serTemplate_cases {tsel : BitVec 3} {s : State} {t : Template} (h : serTemplate tsel s = some t) :
    tsel = t.number ∨ (tsel = 0 ∧ muxSelects t (addrPkt s.addr).toNat (lowNibble (s.pb.read 0)).toNat) := by
  unfold serTemplate at h
  split_ifs at h with h0
  · exact .inr ⟨h0, muxSelects_of_mux h⟩
  · exact .inl (eq_number_of_forced h)

/-- A SER that completes has a template, and what it leaves is the record after SOUT. -/
theorem eq_finished_of_exec_ser {tsel : BitVec 3} {s s1 : State} (h : exec (.ser tsel) s = .next s1)
    (herr : s1.err = 0) : ∃ t, serTemplate tsel s = some t ∧ s1 = finished 0 (t.number.setWidth 32)
      { s with sout := s.sout ++ frameBytes (wraps s) (recordBytes t s) } := by
  cases hlegal : tselLegal tsel with
  | false =>
    rw [exec, execSer, hlegal] at h
    cases h
    exact absurd ((raiseFault_err _ s).symm.trans herr) (by decide)
  | true =>
    cases ht : serTemplate tsel s with
    | none =>
      rw [exec, execSer, if_pos hlegal, ht] at h
      cases h
      exact absurd ((raiseFault_err _ s).symm.trans herr) (by decide)
    | some t =>
      rw [exec_ser_of_template hlegal ht] at h
      cases h
      exact ⟨t, rfl, rfl⟩

/-- SIN holds a record that stands there in the framing of MODE (R148, R160). -/
theorem holdsRecord_frameBytes {s : State} {record : List Byte} (hlen : record.length = 42)
    (hsin : s.sin = frameBytes (wraps s) record) : holdsRecord s record [] := by
  refine ⟨hlen, ?_⟩
  rcases BitVec.eq_zero_or_eq_one s.mode with hm | hm
  · rw [wraps_of_raw hm] at hsin
    exact .inl ⟨hm, hsin.trans (List.append_nil _).symm⟩
  · rw [wraps_of_wrapped hm] at hsin
    exact .inr ⟨hm, syncBytes, rfl, hsin.trans (List.append_nil _).symm⟩

theorem length_frameBytes (s : State) {record : List Byte} (hlen : record.length = 42) :
    (frameBytes (wraps s) record).length = if s.mode = 0 then 42 else 45 := by
  rcases BitVec.eq_zero_or_eq_one s.mode with hm | hm
  · rw [wraps_of_raw hm, hm]
    exact hlen
  · rw [wraps_of_wrapped hm, hm, if_neg (by decide), frameBytes, if_pos rfl, List.length_append, List.length_map, hlen]
    rfl

/-! ### The header comes back (R143, R144, R155) -/

/-- Each of the eight numbers is a nibble. -/
theorem headerNumbers_lt (page : BitVec 8) (sub ctl : Nat) {j : Nat} (hj : j < 8) :
    (headerNumbers page.toNat sub ctl).getD j 0 < 16 := by
  have hpage := page.isLt
  have hall : ∀ n ∈ headerNumbers page.toNat sub ctl, n < 16 := by
    simp only [headerNumbers, bitOf, List.forall_mem_cons]
    exact ⟨by omega, by omega, by omega, by omega, by omega, by omega, by omega, by omega, List.forall_mem_nil _⟩
  have hlen : j < (headerNumbers page.toNat sub ctl).length := hj
  rw [List.getD_eq_getElem _ _ hlen]
  exact hall _ (List.getElem_mem hlen)

section
variable (s : State)

theorem nibbleOf_recordBytes_hdr {j : Nat} (hj : j < 8) : nibbleOf (recordBytes .hdr s) (2 + j) =
    BitVec.ofNat 8 ((headerNumbers s.page.toNat s.sub.toNat s.ctl.toNat).getD j 0) := by
  rw [nibbleOf, getD_recordBytes_hdr_nibble s hj, h84d_h84e_ofNat (headerNumbers_lt _ _ _ hj)]

theorem nibbleOf_recordBytes_hdr_valid {j : Nat} (hj : j < 8) : nibbleOf (recordBytes .hdr s) (2 + j) ≠ 0xFF := by
  rw [nibbleOf, getD_recordBytes_hdr_nibble s hj]
  exact (h84d_h84e _).2

theorem headerDigit_recordBytes {j : Nat} (hj : j < 8) : headerDigit (recordBytes .hdr s) j =
    (headerNumbers s.page.toNat s.sub.toNat s.ctl.toNat).getD j 0 := by
  have hlt := headerNumbers_lt s.page s.sub.toNat s.ctl.toNat hj
  rw [headerDigit, if_neg (nibbleOf_recordBytes_hdr_valid s hj), nibbleOf_recordBytes_hdr s hj, BitVec.toNat_ofNat,
    Nat.mod_eq_of_lt (by omega)]

/-- PAGE comes back from its two digits. -/
theorem page_of_digits :
    BitVec.ofNat 8 (headerDigit (recordBytes .hdr s) 0 + 16 * headerDigit (recordBytes .hdr s) 1) = s.page := by
  rw [headerDigit_recordBytes s (by decide), headerDigit_recordBytes s (by decide)]
  refine (eq_ofNat_of_toNat ?_).symm
  simp only [headerNumbers, List.getD_cons_zero, List.getD_cons_succ]
  omega

/-- SUB comes back from its digits: the bits of SUB that no digit carries are 0 (R26). -/
theorem sub_of_digits (hsub : s.sub &&& ~~~subMask = 0) :
    BitVec.ofNat 16 (headerDigit (recordBytes .hdr s) 2 + 16 * (headerDigit (recordBytes .hdr s) 3 % 8) +
      256 * headerDigit (recordBytes .hdr s) 4 + 4096 * (headerDigit (recordBytes .hdr s) 5 % 4)) = s.sub := by
  have zeroBit (i : Nat) (hi : (~~~subMask).getLsbD i = true) : s.sub.toNat / 2 ^ i % 2 = 0 := by
    have hbit : (s.sub &&& ~~~subMask).getLsbD i = false := hsub ▸ BitVec.getLsbD_zero
    rw [BitVec.getLsbD_and, hi, Bool.and_true] at hbit
    simpa [BitVec.getLsbD, Nat.testBit_eq_decide_div_mod_eq] using hbit
  have h7 := zeroBit 7 (by decide)
  have h14 := zeroBit 14 (by decide)
  have h15 := zeroBit 15 (by decide)
  have hsize := s.sub.isLt
  simp only [headerDigit_recordBytes s, Nat.reduceLT]
  refine (eq_ofNat_of_toNat ?_).symm
  simp only [headerNumbers, List.getD_cons_zero, List.getD_cons_succ]
  omega

/-- CTL comes back: C4 to C6 from the digits of SUB that they share, C7 to C14 from two digits of their own. -/
theorem ctl_of_digits :
    BitVec.ofNat 11 (bitOf (headerDigit (recordBytes .hdr s) 3) 3 + 2 * bitOf (headerDigit (recordBytes .hdr s) 5) 2 +
      4 * bitOf (headerDigit (recordBytes .hdr s) 5) 3 + 8 * headerDigit (recordBytes .hdr s) 6 +
      128 * headerDigit (recordBytes .hdr s) 7) = s.ctl := by
  have hsize := s.ctl.isLt
  simp only [headerDigit_recordBytes s, Nat.reduceLT]
  refine (eq_ofNat_of_toNat ?_).symm
  simp only [headerNumbers, List.getD_cons_zero, List.getD_cons_succ]
  have c4 : bitOf (s.sub.toNat / 16 % 8 + 8 * bitOf s.ctl.toNat 0) 3 = bitOf s.ctl.toNat 0 := by
    unfold bitOf
    omega
  have c5 : bitOf (s.sub.toNat / 4096 % 4 + 4 * bitOf s.ctl.toNat 1 + 8 * bitOf s.ctl.toNat 2) 2 =
      bitOf s.ctl.toNat 1 := by
    unfold bitOf
    omega
  have c6 : bitOf (s.sub.toNat / 4096 % 4 + 4 * bitOf s.ctl.toNat 1 + 8 * bitOf s.ctl.toNat 2) 3 =
      bitOf s.ctl.toNat 2 := by
    unfold bitOf
    omega
  rw [c4, c5, c6]
  unfold bitOf
  omega

end

/-! ### Nibbles and codewords come back (R145, R146) -/

theorem setWidth_lowNibble (b : Byte) : (lowNibble b).setWidth 8 = b &&& 0x0F := by
  refine BitVec.eq_of_toNat_eq ?_
  rw [BitVec.toNat_setWidth_of_le (by decide), lowNibble, toNat_extractLsb'_eq, pow_zero, Nat.div_one]
  exact (Nat.and_two_pow_sub_one_eq_mod b.toNat 4).symm

/-- The three bytes of a codeword make the codeword again (R145, R156). -/
theorem tripletResult_recordBytes (s : State) {k : Nat} (hk : k < 13) :
    tripletResult (recordBytes .trip s) k = (tripletAt s.pb k).setWidth 32 := by
  have hbyte {a : Nat} (i : Nat) (ha : a = 3 + 3 * k + i) (hi : i < 3) := ha ▸ getD_recordBytes_trip s hk hi
  rw [tripletResult, hbyte 0 (a := 3 + 3 * k) rfl (by decide), hbyte 1 (a := 4 + 3 * k) (by omega) (by decide),
    hbyte 2 (a := 5 + 3 * k) (by omega) (by decide), ← h24dec_h24enc]
  refine congrArg h24dec (eq_ofNat_of_toNat ?_).symm
  have hsize := (h24enc (tripletAt s.pb k)).isLt
  simp only [codewordBytes, List.getD_cons_zero, List.getD_cons_succ, toNat_extractLsb'_eq]
  omega

/-- The result of a codeword that SER built has neither the corrected nor the uncorrectable bit. -/
theorem getLsbD_tripletResult_recordBytes (s : State) {k i : Nat} (hk : k < 13) (hi : 18 ≤ i) :
    (tripletResult (recordBytes .trip s) k).getLsbD i = false := by
  rw [tripletResult_recordBytes s hk, BitVec.getLsbD_setWidth, BitVec.getLsbD_of_ge _ _ hi, Bool.and_false]

theorem tripletValue_recordBytes (s : State) {k : Nat} (hk : k < 13) :
    tripletValue (recordBytes .trip s) k = (tripletAt s.pb k).toNat := by
  rw [tripletValue, getLsbD_tripletResult_recordBytes s hk (by decide), if_neg Bool.false_ne_true,
    tripletResult_recordBytes s hk, BitVec.toNat_setWidth_of_le (by decide), Nat.mod_eq_of_lt (tripletAt s.pb k).isLt]

/-- The groups of a slot's value are the low six bits of its bytes. -/
theorem groups_tripletAt (pb : Memory) (k : Nat) :
    BitVec.ofNat 8 ((tripletAt pb k).toNat % 64) = pb.read (1 + 3 * k) &&& 0x3F ∧
      BitVec.ofNat 8 ((tripletAt pb k).toNat / 64 % 64) = pb.read (2 + 3 * k) &&& 0x3F ∧
      BitVec.ofNat 8 ((tripletAt pb k).toNat / 4096) = pb.read (3 + 3 * k) &&& 0x3F := by
  have group {b : Byte} {n : Nat} (h : b.toNat % 64 = n) : BitVec.ofNat 8 n = b &&& 0x3F :=
    (eq_ofNat_of_toNat ((toNat_and_groupMask b).trans h)).symm
  rw [toNat_tripletAt]
  exact ⟨group (by omega), group (by omega), group (by omega)⟩

theorem nibbleOf_recordBytes_link (s : State) {i : Nat} (hi : i < 38) :
    nibbleOf (recordBytes .link s) (i + 2) = s.pb.read i &&& 0x0F := by
  rw [nibbleOf, getD_recordBytes_link s hi, (h84d_h84e _).1, setWidth_lowNibble]

theorem nibbleOf_recordBytes_link_valid (s : State) {i : Nat} (hi : i < 38) :
    nibbleOf (recordBytes .link s) (i + 2) ≠ 0xFF := by
  rw [nibbleOf, getD_recordBytes_link s hi]
  exact (h84d_h84e _).2

theorem linkBad_recordBytes (s : State) {j : Nat} (hj : j < 6) : linkBad (recordBytes .link s) j = false := by
  rw [linkBad, List.any_eq_false]
  intro n hn
  have hn := List.mem_range.1 hn
  rw [show 3 + 6 * j + n = 1 + 6 * j + n + 2 by omega, beq_iff_eq]
  exact nibbleOf_recordBytes_link_valid s (by omega)

/-! ### Each template -/

/-- A byte of PB after a SER and a DESER with template `t` (R165). -/
def restoredByte (t : Template) (pb : Memory) (i : Nat) : Byte :=
  if t = .hdr ∧ i < 8 then 0x20 else pb.read i &&& carriedBits t i

/-- DESER takes a record from `s` with nothing to report and gives the packet of `s` back (R165). -/
def restores (t : Template) (tsel : BitVec 3) (s : State) (rest : List Byte) : Prop :=
  ∃ m : Memory, exec (.deser tsel) s = .next (deserialized 0 0 t.number.toNat { s with sin := rest, pb := m }) ∧
    ∀ i < 40, m.read i = restoredByte t s.pb i

theorem restoredByte_of_ne_hdr {t : Template} (h : t ≠ .hdr) (pb : Memory) (i : Nat) :
    restoredByte t pb i = pb.read i &&& carriedBits t i := if_neg fun hi => h hi.1

/-- The bytes of the triplet slots. -/
theorem restoredByte_trip (pb : Memory) {i : Nat} (hi : i ≠ 0) : restoredByte .trip pb i = pb.read i &&& 0x3F := by
  rw [restoredByte_of_ne_hdr (by decide), carriedBits, if_neg hi]

theorem restoredByte_link (pb : Memory) {i : Nat} (hi : i ≤ 37) : restoredByte .link pb i = pb.read i &&& 0x0F := by
  rw [restoredByte_of_ne_hdr (by decide), carriedBits, if_pos hi]

theorem restoredByte_link_plain (pb : Memory) {i : Nat} (hi : 37 < i) : restoredByte .link pb i = pb.read i := by
  rw [restoredByte_of_ne_hdr (by decide), carriedBits, if_neg (by omega)]
  exact BitVec.and_allOnes

section
variable {tsel : BitVec 3} {s : State} {rest : List Byte} (hwf : s.pb.wf = true)
include hwf

theorem restores_row (hrecord : holdsRecord s (recordBytes .row s) rest) (ht : serTemplate tsel s = some .row) :
    restores .row tsel s rest := by
  have hsel := serTemplate_cases ht
  rw [← recordPkt_recordBytes .row] at hsel
  obtain ⟨m, hexec, hread, -⟩ := deserRowResult tsel s _ rest hwf hrecord (addressValid_recordBytes .row s) hsel
  rw [recordAddr_recordBytes] at hexec
  refine ⟨m, hexec, fun i hi => ?_⟩
  rw [hread i hi, getD_recordBytes_row s hi, oddParity_and_dataBits]
  rfl

theorem restores_hdr (hsub : s.sub &&& ~~~subMask = 0) (hrecord : holdsRecord s (recordBytes .hdr s) rest)
    (ht : serTemplate tsel s = some .hdr) : restores .hdr tsel s rest := by
  have hsel := serTemplate_cases ht
  rw [← recordPkt_recordBytes .hdr] at hsel
  obtain ⟨m, hexec, hspace, hread, -⟩ :=
    deserHdrResult tsel s _ rest hwf hrecord (addressValid_recordBytes .hdr s) hsel
  have hbad : ((List.range 8).countP fun j => nibbleOf (recordBytes .hdr s) (2 + j) == 0xFF) = 0 :=
    List.countP_eq_zero.2 fun j hj => by
      simpa using nibbleOf_recordBytes_hdr_valid s (List.mem_range.1 hj)
  rw [recordAddr_recordBytes, hbad, page_of_digits, sub_of_digits s hsub, ctl_of_digits] at hexec
  refine ⟨m, hexec, fun i hi => ?_⟩
  by_cases hlt : i < 8
  · rw [hspace i hlt, restoredByte, if_pos ⟨rfl, hlt⟩]
  · rw [hread i (by omega) hi, getD_recordBytes_hdr_text s (by omega) hi, oddParity_and_dataBits, restoredByte,
      if_neg fun h => hlt h.2]
    rfl

theorem restores_trip (hrecord : holdsRecord s (recordBytes .trip s) rest) (ht : serTemplate tsel s = some .trip) :
    restores .trip tsel s rest := by
  have hdc : nibbleOf (recordBytes .trip s) 2 = (lowNibble (s.pb.read 0)).setWidth 8 := (h84d_h84e _).1
  have hdcv : nibbleOf (recordBytes .trip s) 2 ≠ 0xFF := (h84d_h84e (lowNibble (s.pb.read 0))).2
  have hdcNat : (nibbleOf (recordBytes .trip s) 2).toNat = (lowNibble (s.pb.read 0)).toNat := by
    rw [hdc, BitVec.toNat_setWidth_of_le (by decide)]
  have hsel := serTemplate_cases ht
  rw [← recordPkt_recordBytes .trip, ← hdcNat] at hsel
  obtain ⟨m, hexec, hfirst, hslots, -⟩ :=
    deserTripResult tsel s _ rest hwf hrecord (addressValid_recordBytes .trip s) hdcv hsel
  have hbad : ((List.range 13).countP fun k => (tripletResult (recordBytes .trip s) k).getLsbD 31) = 0 :=
    List.countP_eq_zero.2 fun k hk =>
      Bool.eq_false_iff.1 (getLsbD_tripletResult_recordBytes s (List.mem_range.1 hk) (by decide))
  have hcorrected : ((List.range 13).any fun k => (tripletResult (recordBytes .trip s) k).getLsbD 30) = false :=
    List.any_eq_false.2 fun k hk =>
      Bool.eq_false_iff.1 (getLsbD_tripletResult_recordBytes s (List.mem_range.1 hk) (by decide))
  rw [recordAddr_recordBytes, hbad, hcorrected, if_pos rfl, if_neg Bool.false_ne_true] at hexec
  refine ⟨m, hexec, fun i hi => ?_⟩
  rcases Nat.eq_zero_or_pos i with rfl | hpos
  · rw [hfirst, hdc, setWidth_lowNibble]
    rfl
  · have hk : (i - 1) / 3 < 13 := by omega
    obtain ⟨h1, h2, h3⟩ := hslots _ hk
    obtain ⟨g1, g2, g3⟩ := groups_tripletAt s.pb ((i - 1) / 3)
    rw [tripletValue_recordBytes s hk] at h1 h2 h3
    rw [restoredByte_trip _ (by omega)]
    have hplace : i = 1 + 3 * ((i - 1) / 3) ∨ i = 2 + 3 * ((i - 1) / 3) ∨ i = 3 + 3 * ((i - 1) / 3) := by omega
    rcases hplace with hi | hi | hi
    · exact hi ▸ h1.trans g1
    · exact hi ▸ h2.trans g2
    · exact hi ▸ h3.trans g3

theorem restores_link (hrecord : holdsRecord s (recordBytes .link s) rest) (ht : serTemplate tsel s = some .link) :
    restores .link tsel s rest := by
  have hnibble {i : Nat} (hi : i < 38) := nibbleOf_recordBytes_link s hi
  have hvalid {i : Nat} (hi : i < 38) := nibbleOf_recordBytes_link_valid s hi
  have hdcNat : (nibbleOf (recordBytes .link s) 2).toNat = (lowNibble (s.pb.read 0)).toNat := by
    rw [hnibble (i := 0) (by decide), ← setWidth_lowNibble, BitVec.toNat_setWidth_of_le (by decide)]
  have hsel := serTemplate_cases ht
  rw [← recordPkt_recordBytes .link, ← hdcNat] at hsel
  obtain ⟨m, hexec, hfirst, hlinks, htail, hplain38, hplain39, -⟩ :=
    deserLinkResult tsel s _ rest hwf hrecord (addressValid_recordBytes .link s) (hvalid (i := 0) (by decide)) hsel
  have hbad : ((List.range 6).countP fun j => linkBad (recordBytes .link s) j) = 0 :=
    List.countP_eq_zero.2 fun j hj => Bool.eq_false_iff.1 (linkBad_recordBytes s (List.mem_range.1 hj))
  rw [recordAddr_recordBytes, hbad, if_neg (hvalid (i := 37) (by decide))] at hexec
  refine ⟨m, hexec, fun i hi => ?_⟩
  have hplace : i = 0 ∨ (1 ≤ i ∧ i ≤ 36) ∨ i = 37 ∨ i = 38 ∨ i = 39 := by omega
  rcases hplace with rfl | ⟨hlo, hhi⟩ | rfl | rfl | rfl
  · rw [hfirst, restoredByte_link _ (by decide)]
    exact hnibble (by decide)
  · have hlink := hlinks ((i - 1) / 6) (by omega) ((i - 1) % 6) (by omega)
    rw [linkBad_recordBytes s (by omega), if_neg Bool.false_ne_true,
      show 3 + 6 * ((i - 1) / 6) + (i - 1) % 6 = i + 2 by omega,
      show 1 + 6 * ((i - 1) / 6) + (i - 1) % 6 = i by omega] at hlink
    rw [hlink, restoredByte_link _ (by omega), hnibble (by omega)]
  · rw [htail, if_neg (hvalid (i := 37) (by decide)), restoredByte_link _ (by decide)]
    exact hnibble (by decide)
  · rw [hplain38, restoredByte_link_plain _ (by decide)]
    exact getD_recordBytes_link_plain s (i := 0) (by decide)
  · rw [hplain39, restoredByte_link_plain _ (by decide)]
    exact getD_recordBytes_link_plain s (i := 1) (by decide)

end

/-- Whatever the template, a packet whose record stands in SIN comes back. -/
theorem restores_of_serialized {tsel : BitVec 3} {s : State} {t : Template} {rest : List Byte} (hwf : s.pb.wf = true)
    (hsub : s.sub &&& ~~~subMask = 0) (hrecord : holdsRecord s (recordBytes t s) rest)
    (ht : serTemplate tsel s = some t) : restores t tsel s rest := by
  cases t with
  | hdr => exact restores_hdr hwf hsub hrecord ht
  | row => exact restores_row hwf hrecord ht
  | trip => exact restores_trip hwf hrecord ht
  | link => exact restores_link hwf hrecord ht

/-! ### The round trip (R165) -/

theorem inv_iff (s : State) : s.inv = true ↔ s.pb.wf = true ∧ fdGood s.fd = true ∧ s.warn &&& 0x07 = 0 ∧
    s.sub &&& ~~~subMask = 0 ∧ s.err ≠ 7 := by
  simp [State.inv, registersGood, and_assoc]

/-- A DESER with nothing to report leaves WARN and WCNT as they were (R161). -/
theorem deserialized_clean (t : Template) (s : State) :
    deserialized 0 0 t.number.toNat s = finished 0 (t.number.setWidth 32) s := by
  have hwarn : s.warn ||| (0 &&& 0xF8) = s.warn := BitVec.or_zero
  have hwcnt : BitVec.ofNat 16 (min 0xFFFF (s.wcnt.toNat + 0)) = s.wcnt := by
    have hsize : s.wcnt.toNat < 2 ^ 16 := s.wcnt.isLt
    exact (eq_ofNat_of_toNat (by omega)).symm
  rw [deserialized, hwarn, hwcnt]
  cases t <;> rfl

/-- The record of a packet does not depend on the streams and the end of the command that emits it. -/
theorem recordBytes_finished (t : Template) (s : State) (flags : BitVec 8) (rsp : Word) (sin sout : List Byte) :
    recordBytes t { finished flags rsp { s with sout := sout } with sin := sin } = recordBytes t s := by
  cases t <;> rfl

/-- Settles O60: the record that SER emits stands in SIN in the framing of MODE, and its packet comes back with nothing
to report. -/
theorem serializedPacketComesBack : Obligations.SerializedPacketComesBack := by
  unfold Obligations.SerializedPacketComesBack
  intro tsel s s1 hinv _ hser herr
  obtain ⟨hwf, -, -, hsub, -⟩ := (inv_iff s).1 hinv
  obtain ⟨t, ht, rfl⟩ := eq_finished_of_exec_ser hser herr
  have hlen := length_recordBytes t s
  obtain ⟨m, hexec, hread⟩ := restores_of_serialized (t := t) (tsel := tsel) (rest := [])
    (s := { finished 0 (t.number.setWidth 32) { s with sout := s.sout ++ frameBytes (wraps s) (recordBytes t s) } with
      sin := frameBytes (wraps s) (recordBytes t s) })
    hwf hsub (by rw [recordBytes_finished]; exact holdsRecord_frameBytes hlen rfl) ht
  rw [deserialized_clean] at hexec
  exact ⟨t, _, _, rfl, rfl, length_frameBytes s hlen, hexec, rfl, rfl, rfl, rfl, rfl, rfl, rfl, rfl, rfl, rfl, hread⟩

end Sys2Proof.Proofs
end

section
/-! Proofs, spec/60_exceptions.md. What the three ways a command ends (`exec_cases`) have in common: each of them
returns one response (R185), and only a fault leaves a code in ERR (R20, R172). -/

namespace Sys2Proof.Proofs

open Sys2Proof Sys2Proof.Machine Sys2Proof.Laws

/-! ### The step is total (R185) -/

/-- The result is a next state with the port of `s` and one response after those of `s`. -/
def respondsOnce (result : Result) (s : State) : Prop :=
  ∃ t r, result = .next t ∧ t.port = s.port ∧ t.responses = s.responses ++ [r]

theorem respondsOnce_raiseFault (e : ErrCode) (s : State) : respondsOnce (.next (raiseFault e s)) s :=
  ⟨_, 0, rfl, raiseFault_port e s, raiseFault_responses e s⟩

theorem respondsOnce_of_completes {result : Result} {s : State} (h : completes result s) : respondsOnce result s := by
  obtain ⟨flags, rsp, s', rfl, hport, hresponses⟩ := h
  exact ⟨_, rsp, rfl, hport, by rw [complete_responses, hresponses]⟩

theorem respondsOnce_exec (i : Instr) (s : State) : respondsOnce (exec i s) s := by
  rcases exec_cases i s with ⟨e, hfault⟩ | ⟨r, n, -, -, hread⟩ | hdone
  · rw [hfault]
    exact respondsOnce_raiseFault e s
  · exact ⟨_, _, hread, rfl, rfl⟩
  · exact respondsOnce_of_completes hdone

/-- A refused word has its response too: the 0 of the decoding fault (R62, R172). -/
theorem respondsOnce_runCommand (w : Word) (s : State) : respondsOnce (runCommand w s) s := by
  unfold runCommand
  cases decode w with
  | ok i => exact respondsOnce_exec i s
  | eOpc => exact respondsOnce_raiseFault .eOpc s
  | eOper => exact respondsOnce_raiseFault .eOper s

/-- Whatever the host does, there is a next state. -/
theorem exists_next_of_takeEvent (e : HostEvent) (s : State) : ∃ t, takeEvent e s = .next t := by
  cases e with
  | command w =>
    obtain ⟨t, -, hnext, -, -⟩ := respondsOnce_runCommand w s
    exact ⟨t, hnext⟩
  | append b => exact ⟨_, rfl⟩
  | reset => exact ⟨_, rfl⟩

theorem exists_next_of_step (s : State) : ∃ t, step s = .next t := by
  unfold step
  cases s.port with
  | nil => exact ⟨s, rfl⟩
  | cons e rest => exact exists_next_of_takeEvent e (s.setPort rest)

/-- Settles O11: the step takes the host's next event, and a command word, run or refused, returns one response. -/
theorem everyCommandWordGetsANextStateAndAResponse : Obligations.EveryCommandWordGetsANextStateAndAResponse := by
  unfold Obligations.EveryCommandWordGetsANextStateAndAResponse
  refine ⟨exists_next_of_step, fun s w rest hp => ?_⟩
  rw [step_of_command hp]
  exact respondsOnce_runCommand w { s with port := rest }

/-! ### What a fault writes (R172) -/

/-- A command other than REGRD that leaves a code in ERR has taken the fault of that code: a completion leaves 0. -/
theorem eq_faulted_of_err_ne_zero {i : Instr} {s t : State} (hi : ∀ r, i ≠ .regrd r) (h : exec i s = .next t)
    (herr : t.err ≠ 0) : t = faulted t.err s := by
  rcases exec_cases i s with ⟨e, hfault⟩ | ⟨r, n, hregrd, -, -⟩ | ⟨flags, rsp, s', hdone, -, -⟩
  · cases hfault.symm.trans h
    rfl
  · exact absurd hregrd (hi r)
  · cases hdone.symm.trans h
    exact absurd rfl herr

/-- A REGRD that changes STAT or ERR has faulted: one that reads a register leaves both (R21). -/
theorem eq_faulted_of_regrd_changes {r : BitVec 8} {s t : State} (h : exec (.regrd r) s = .next t)
    (hchanges : t.stat ≠ s.stat ∨ t.err ≠ s.err) : t = faulted t.err s := by
  cases hr : regOfNumber r with
  | none =>
    cases (exec_regrd_of_none hr s).symm.trans h
    rfl
  | some n =>
    cases (exec_regrd_of_some hr s).symm.trans h
    exact absurd hchanges (not_or.2 ⟨not_not.2 rfl, not_not.2 rfl⟩)

/-- Settles O15: commands by the ways they end, refused words by the fault that the step takes for them. -/
theorem faultChangesOnlyErrStatAndResponse : Obligations.FaultChangesOnlyErrStatAndResponse := by
  unfold Obligations.FaultChangesOnlyErrStatAndResponse
  exact ⟨fun _ _ _ => eq_faulted_of_err_ne_zero, fun _ _ _ => eq_faulted_of_regrd_changes,
    fun _ _ _ hp => ⟨step_of_eOpc hp, step_of_eOper hp⟩⟩

end Sys2Proof.Proofs
end

section
/-! Proofs, spec/70_reset_and_hazards.md. The step of a reset as one state, which keeps nothing of the block's state
before it; and what the commands answer in the reset state, where the packet buffer reads as 0, no descriptor entry is
valid, and SIN is shorter than a record. -/

namespace Sys2Proof.Proofs

open Sys2Proof Sys2Proof.Machine Sys2Proof.Laws

/-! ### The reset input (R187) -/

/-- A reset at the front of the port is taken from it; of the state before, only the host's two fields are kept. -/
theorem step_of_reset {s : State} {rest : List HostEvent} (hp : s.port = .reset :: rest) :
    step s = .next { State.reset with port := rest, responses := s.responses } := by
  rw [step, hp]
  rfl

/-- What one reset leaves is what any other leaves, but for the host's two fields. -/
theorem eq_of_step_of_reset {s' t' : State} {rest' : List HostEvent} (hp : s'.port = .reset :: rest')
    (hstep : step s' = .next t') (port : List HostEvent) (responses : List Word) :
    { t' with fd := State.reset.fd, port := port, responses := responses } =
      { State.reset with port := port, responses := responses } := by
  cases (step_of_reset hp).symm.trans hstep
  rfl

/-- Settles O9: the step of a reset answers the reset state, whose items are read off one by one. -/
theorem resetGivesTheResetState : Obligations.ResetGivesTheResetState := by
  unfold Obligations.ResetGivesTheResetState
  intro s rest hp
  exact ⟨_, step_of_reset hp, read_nil, fun i _ => congrArg FdEntry.valid (fdAt_reset i),
    rfl, rfl, rfl, rfl, rfl, rfl, rfl, rfl, rfl, rfl, rfl, rfl,
    fun _ _ _ hp' hstep => eq_of_step_of_reset hp' hstep rest s.responses⟩

/-! ### The first command (R190) -/

/-- No entry is valid after reset, so that the walk stops at its first entry. -/
theorem brokenRun_reset (start : BitVec 6) : brokenRun State.reset.fd start.toNat :=
  .inl ⟨0, start.isLt, fun k hk => absurd hk (Nat.not_lt_zero k), congrArg FdEntry.valid (fdAt_reset _)⟩

/-- With fewer bytes in SIN than a record, a legal DESER is truncated (R151, R158). -/
theorem exec_deser_of_short {tsel : BitVec 3} {s : State} (htsel : tsel.toNat < 5)
    (hshort : s.sin.length < streamLen s) : exec (.deser tsel) s = .next (faulted 6 s) := by
  rw [exec, execDeser, if_pos (tselLegal_of_lt htsel), headRecord, if_pos hshort]
  rfl

theorem sin_reset_short : State.reset.sin.length < streamLen State.reset := by decide

/-- The bytes of an empty packet buffer. -/
theorem load_nil (a n : Nat) : Memory.load [] a n = List.replicate n 0 := by
  simp only [Memory.load, read_nil, List.map_const', List.length_range]

theorem headerNibbles_zero : headerNibbles 0 0 0 = List.replicate 8 0 := by decide

/-- The header record of magazine 0, page 0x00, with an all-zero payload: ten codewords of the nibble 0, then 32 bytes
0x00 with their parity bit. -/
theorem recordBytes_hdr_reset :
    recordBytes .hdr State.reset = List.replicate 10 0x15 ++ List.replicate 32 0x80 :=
  calc recordBytes .hdr State.reset
    _ = addressBytes 0 ++ ((headerNibbles 0 0 0).map h84e ++ (Memory.load [] 8 32).map oddParity) := rfl
    _ = List.replicate 2 0x15 ++ (List.replicate 8 0x15 ++ List.replicate 32 0x80) := by
      have haddr : addressBytes 0 = List.replicate 2 0x15 := by decide
      have hcode : h84e 0 = 0x15 := rfl
      have htext : oddParity 0 = 0x80 := by decide
      rw [haddr, headerNibbles_zero, load_nil, List.map_replicate, List.map_replicate, hcode, htext]
    _ = List.replicate 10 0x15 ++ List.replicate 32 0x80 := by
      rw [← List.append_assoc, List.replicate_append_replicate]

/-- AUTO after reset is HDR, since ADDR names packet 0, and MODE = 0 leaves the record unframed (R138, R148). -/
theorem exec_ser_auto_reset : exec (.ser 0) State.reset = .next (finished 0 1
    { State.reset with sout := List.replicate 10 0x15 ++ List.replicate 32 0x80 }) := by
  rw [exec_ser_of_template (t := .hdr) rfl rfl, wraps_of_raw rfl, recordBytes_hdr_reset]
  rfl

/-- A slot of an empty packet buffer holds the value 0. -/
theorem tripletAt_nil (k : Nat) : tripletAt [] k = 0 := by
  simp only [tripletAt, read_nil]
  rfl

/-- The value 0 is a column triplet, of extended mode 0x20 (R129). -/
theorem tripgetResponse_zero : tripgetResponse 0 = 0x00800000 := by decide

/-- Settles O10: every command ends with a response in any state, and the notable results are the commands' own rules on
an empty buffer, an invalid FD and an empty SIN. -/
theorem firstCommandAfterResetHasItsResult : Obligations.FirstCommandAfterResetHasItsResult := by
  unfold Obligations.FirstCommandAfterResetHasItsResult
  refine ⟨fun i => ?defined, fun idx hidx => exec_pbrd_of_lt hidx State.reset,
    fun start => ⟨exec_extract_of_broken (brokenRun_reset start), exec_insert_of_broken (brokenRun_reset start)⟩,
    fun tsel htsel => exec_deser_of_short htsel sin_reset_short, exec_sdrop_of_lt sin_reset_short,
    exec_ser_auto_reset, fun k hk => ?triplet⟩
  case defined =>
    obtain ⟨t, -, hnext, -, -⟩ := respondsOnce_exec i State.reset
    exact ⟨t, hnext⟩
  case triplet =>
    have hslot : tripletAt State.reset.pb k.toNat = 0 := tripletAt_nil k.toNat
    rw [exec_tripget_of_lt hk, hslot, tripgetResponse_zero]

end Sys2Proof.Proofs
end

section
/-! Proofs, spec/30_encoding.md R53 to R63, the round trip. Both directions turn on the decoder by rows: the word of a
command matches the command's row and its fields read back; a word that decodes matches the row of its opcode. -/

namespace Sys2Proof.Proofs

open Sys2Proof Sys2Proof.Machine Sys2Proof.Laws

/-! ### Decoding an encoded command -/

/-- The word of a command matches the command's row of R63. -/
theorem encode_matches (i : Instr) : encode i &&& i.mask = fieldAt i.opcode 24 :=
  match i with
  | .nop => MaskMatch.nop
  | .regrd r => MaskMatch.regrd r
  | .regwr r val => MaskMatch.regwr r val
  | .wclr => MaskMatch.wclr
  | .accset imm24 => MaskMatch.accset imm24
  | .h84enc imm4 => MaskMatch.h84enc imm4
  | .h84dec imm8 => MaskMatch.h84dec imm8
  | .h24enc imm18 => MaskMatch.h24enc imm18
  | .h24dec imm24 => MaskMatch.h24dec imm24
  | .parenc imm7 => MaskMatch.parenc imm7
  | .pardec imm8 => MaskMatch.pardec imm8
  | .bitrev imm8 => MaskMatch.bitrev imm8
  | .pbwr idx val => MaskMatch.pbwr idx val
  | .pbrd idx => MaskMatch.pbrd idx
  | .pbclr => MaskMatch.pbclr
  | .fdwr idx last byte lsb wm1 off => MaskMatch.fdwr idx last byte lsb wm1 off
  | .fdclr => MaskMatch.fdclr
  | .extract start => MaskMatch.extract start
  | .insert start => MaskMatch.insert start
  | .tripget k => MaskMatch.tripget k
  | .tripput k imm18 => MaskMatch.tripput k imm18
  | .ser tsel => MaskMatch.ser tsel
  | .deser tsel => MaskMatch.deser tsel
  | .sdrop => MaskMatch.sdrop

/-- No field of a row overlaps another field or the opcode, so each reads back what was put there (R54 to R61). -/
theorem readFields_encode (i : Instr) : readFields (encode i) i = i := by
  cases i <;>
    simp [readFields, encode, extractLsb'_or, extractLsb'_fieldAt_self, extractLsb'_fieldAt_other]

/-- Settles O1: the encoded command matches its row, and its fields read back are the command. -/
theorem decodeOfEncodeIsTheCommand : Obligations.DecodeOfEncodeIsTheCommand := by
  unfold Obligations.DecodeOfEncodeIsTheCommand
  intro i hwf
  have hfields := readFields_encode i
  rw [decode_of_matches (opcodeOf_encode i) (encode_matches i) (by rwa [hfields]), hfields]

/-! ### Encoding a decoded command -/

/-- One command of each row, in the order of R63. -/
def rowCommands : List Instr :=
  [.nop, .regrd 0, .regwr 0 0, .wclr, .accset 0, .h84enc 0, .h84dec 0, .h24enc 0, .h24dec 0, .parenc 0, .pardec 0,
    .bitrev 0, .pbwr 0 0, .pbrd 0, .pbclr, .fdwr 0 0 0 0 0 0, .fdclr, .extract 0, .insert 0, .tripget 0,
    .tripput 0 0, .ser 0, .deser 0, .sdrop]

theorem opcodes_rowCommands : rowCommands.map Instr.opcode = listedOpcodes := rfl

/-- A word that decodes has the opcode of a row (R62 step 1). -/
theorem exists_row_of_decode_ok {w : Word} {i : Instr} (h : decode w = .ok i) :
    ∃ row : Instr, opcodeOf w = row.opcode := by
  have hlisted : opcodeOf w ∈ listedOpcodes := by
    by_contra hunlisted
    cases (decode_of_unlisted hunlisted).symm.trans h
  rw [← opcodes_rowCommands] at hlisted
  obtain ⟨row, -, hrow⟩ := List.mem_map.1 hlisted
  exact ⟨row, hrow.symm⟩

/-- A word that decodes passes steps 2 and 3 of R62 for the row of its opcode. -/
theorem matches_of_decode_ok {w : Word} {i row : Instr} (hop : opcodeOf w = row.opcode) (h : decode w = .ok i) :
    w &&& row.mask = fieldAt row.opcode 24 ∧ (readFields w row).wellFormed = true := by
  constructor
  · by_contra hreserved
    cases (decode_of_reserved hop hreserved).symm.trans h
  · by_contra hnot
    cases (decode_of_not_wellFormed hop hnot).symm.trans h

/-- Settles O2: the decoded command is the one read from the word by its row, and the word matches the row. -/
theorem encodeOfDecodeIsTheWord : Obligations.EncodeOfDecodeIsTheWord := by
  unfold Obligations.EncodeOfDecodeIsTheWord
  intro w i h
  obtain ⟨row, hop⟩ := exists_row_of_decode_ok h
  obtain ⟨hmatch, hwf⟩ := matches_of_decode_ok hop h
  cases (decode_of_matches hop hmatch hwf).symm.trans h
  exact ⟨hwf, encode_readFields_of_matches hmatch⟩

/-! ### Words of the spec -/

/-- Settles O4: eleven of the words are those of the commands that the spec names for them, so the round trip decodes
them; the twelfth has no row, and the last a reserved `tsel`. -/
theorem wordsOfTheSpecDecode : Obligations.WordsOfTheSpecDecode := by
  unfold Obligations.WordsOfTheSpecDecode
  have roundTrip (i : Instr) (hwf : i.wellFormed = true) {w : Word} (hw : w = encode i) : decode w = .ok i :=
    hw ▸ decodeOfEncodeIsTheCommand i hwf
  exact ⟨roundTrip (.h84enc 7) rfl rfl, roundTrip (.h24enc 0x12345) rfl rfl, roundTrip (.regrd 1) rfl rfl,
    roundTrip (.regwr 5 0x3A) rfl rfl, roundTrip (.pbwr 39 0x80) rfl rfl, roundTrip (.fdwr 1 1 11 1 2 4) rfl rfl,
    roundTrip (.tripget 12) rfl rfl, roundTrip (.tripput 12 0x7A9) rfl rfl, roundTrip (.ser 2) rfl rfl,
    roundTrip (.extract 63) rfl rfl, roundTrip .sdrop rfl rfl, decode_of_unlisted (by decide),
    decode_of_reserved_tsel (.inl rfl) (by decide)⟩

end Sys2Proof.Proofs
end

section
/-! Proofs, spec/20_memory.md R34 and spec/44_fields.md R123. A canonical buffer is determined by what it reads as. With
disjoint segments the segment on a bit of PB, or of the field value, is the only one there, so that EXTRACT reads what
INSERT wrote and INSERT writes what EXTRACT read. -/

namespace Sys2Proof.Proofs

open Sys2Proof Sys2Proof.Machine Sys2Proof.Laws

/-! ### Canonical buffers -/

/-- A canonical buffer reads as 0 at the address of its first cell when that cell is taken away. -/
theorem read_tail_self {a : Nat} {v : Byte} {rest : Memory} (hwf : Memory.wf ((a, v) :: rest) = true) :
    Memory.read rest a = 0 := by
  obtain ⟨-, -, hhead, hrest⟩ := (wf_cell a v rest).1 hwf
  exact read_eq_zero_of_lt hrest hhead

/-- The first cell of a canonical buffer is the lowest address that does not read as 0. -/
theorem head_le_of_read_eq {a b : Nat} {v w : Byte} {m n : Memory} (hm : Memory.wf ((a, v) :: m) = true)
    (hn : Memory.wf ((b, w) :: n) = true) (hread : ∀ x, Memory.read ((a, v) :: m) x = Memory.read ((b, w) :: n) x) :
    b ≤ a := by
  by_contra hlt
  obtain ⟨-, hv, -, -⟩ := (wf_cell a v m).1 hm
  have hfirst := hread a
  rw [read_cell, if_pos rfl, read_eq_zero_of_lt hn (by simpa using hlt)] at hfirst
  exact hv hfirst

/-- Canonical buffers that read the same are the same, by induction on their cells: the first cells agree, and the rests
read the same since both read as 0 at the first address. -/
theorem eq_of_read_eq {m m' : Memory} (hm : m.wf = true) (hm' : m'.wf = true) (hread : ∀ x, m.read x = m'.read x) :
    m = m' := by
  induction m generalizing m' with
  | nil => exact (eq_nil_of_read_eq_zero hm' fun x => (hread x).symm).symm
  | cons c rest ih =>
    obtain ⟨a, v⟩ := c
    cases m' with
    | nil => exact eq_nil_of_read_eq_zero hm hread
    | cons c' rest' =>
      obtain ⟨b, w⟩ := c'
      have hab : a = b := Nat.le_antisymm (head_le_of_read_eq hm' hm fun x => (hread x).symm)
        (head_le_of_read_eq hm hm' hread)
      subst hab
      obtain ⟨-, -, -, hwf⟩ := (wf_cell a v rest).1 hm
      obtain ⟨-, -, -, hwf'⟩ := (wf_cell a w rest').1 hm'
      have hvw := hread a
      rw [read_cell, read_cell, if_pos rfl, if_pos rfl] at hvw
      have hrest : rest = rest' := by
        refine ih hwf hwf' fun x => ?_
        by_cases hx : a = x
        · rw [← hx, read_tail_self hm, read_tail_self hm']
        · have htail := hread x
          rwa [read_cell, read_cell, if_neg hx, if_neg hx] at htail
      rw [hvw, hrest]

/-- Settles O20: the laws of one write, and the buffer from its reads. -/
theorem packetBufferReadsBackWhatWasWritten : Obligations.PacketBufferReadsBackWhatWasWritten := by
  unfold Obligations.PacketBufferReadsBackWhatWasWritten
  exact ⟨fun m a x v hwf ha => ⟨wf_write hwf ha v, read_write hwf a v x⟩, fun m m' => eq_of_read_eq⟩

/-! ### The bits of a segment (R115) -/

/-- The segment stands for bit `j` of the field value. -/
def segHolds (body : BitVec 18) (j : Nat) : Bool := decide (segOff body ≤ j ∧ j < segOff body + segWidth body)

/-- The segment leaves neither its byte nor the field value (R117). -/
theorem bounds_of_segGood {body : BitVec 18} (hgood : segGood body = true) :
    segLsb body + segWidth body ≤ 8 ∧ segOff body + segWidth body ≤ 24 := by
  simp only [segGood, segFits, Bool.and_eq_true, decide_eq_true_eq] at hgood
  exact hgood.1

/-- The bits of PB byte `a` that a segment lies on, one by one. -/
theorem getLsbD_segPbBits (body : BitVec 18) (a : Nat) {j : Nat} (hj : j < 8) :
    (segPbBits body a).getLsbD j = segCovers body a j := by
  rw [segPbBits]
  split_ifs with ha
  · rw [getLsbD_segMask body hj, ha]
  · rw [segCovers, decide_eq_false fun hcov => ha hcov.1]
    exact BitVec.getLsbD_zero

section
variable {body : BitVec 18} (hgood : segGood body = true) {j : Nat} (hj : j < 24)
include hgood hj

/-- A byte under the mask of the segment's width, put at its place in the field value. -/
theorem getLsbD_masked_shiftLeft (x : Byte) :
    ((x &&& widthMask (segWidth body)).setWidth Config.accW <<< segOff body).getLsbD j =
      (segHolds body j && x.getLsbD (j - segOff body)) := by
  obtain ⟨hfits, -⟩ := bounds_of_segGood hgood
  rw [BitVec.getLsbD_shiftLeft, BitVec.getLsbD_setWidth, BitVec.getLsbD_and, getLsbD_widthMask, segHolds]
  by_cases hlo : segOff body ≤ j
  · by_cases hhi : j < segOff body + segWidth body
    · have hw : j - segOff body < segWidth body := by omega
      have h8 : j - segOff body < 8 := by omega
      have h24 : j - segOff body < 24 := by omega
      simp [hlo, hhi, hw, h8, h24, hj]
    · have hw : ¬ j - segOff body < segWidth body := by omega
      simp [hhi, hw]
  · simp [hlo, Nat.lt_of_not_le hlo]

/-- The bits of the field value that a segment stands for, one by one. -/
theorem getLsbD_segValueBits : (segValueBits body).getLsbD j = segHolds body j := by
  have hones : widthMask (segWidth body) = BitVec.allOnes 8 &&& widthMask (segWidth body) := BitVec.allOnes_and.symm
  rw [segValueBits, hones, getLsbD_masked_shiftLeft hgood hj, BitVec.getLsbD_allOnes]
  cases hholds : segHolds body j with
  | false => rfl
  | true =>
    obtain ⟨hlo, hhi⟩ := of_decide_eq_true hholds
    obtain ⟨hfits, -⟩ := bounds_of_segGood hgood
    have hbyte : j - segOff body < 8 := by omega
    rw [Bool.true_and, decide_eq_true hbyte]

/-- What EXTRACT reads of a segment: the bits of PB from LSB up, at OFF (R121). -/
theorem getLsbD_segRead (pb : Memory) : (segRead pb body).getLsbD j =
    (segHolds body j && (pb.read (segByte body)).getLsbD (segLsb body + (j - segOff body))) := by
  rw [segRead, getLsbD_masked_shiftLeft hgood hj, BitVec.getLsbD_ushiftRight]

end

/-! ### The bits of a field value (R121) -/

/-- A bit of a value that is OR-ed together. -/
theorem getLsbD_foldl_or {α : Type} {w : Nat} (f : α → BitVec w) (l : List α) (x : BitVec w) (j : Nat) :
    (l.foldl (fun acc b => acc ||| f b) x).getLsbD j = (x.getLsbD j || l.any fun b => (f b).getLsbD j) := by
  induction l generalizing x with
  | nil => simp
  | cons b rest ih => rw [List.foldl_cons, ih, BitVec.getLsbD_or, List.any_cons, Bool.or_assoc]

theorem getLsbD_gatherField (pb : Memory) (segs : List (BitVec 18)) (j : Nat) :
    (gatherField pb segs).getLsbD j = segs.any fun b => (segRead pb b).getLsbD j := by
  simp [gatherField, getLsbD_foldl_or]

theorem getLsbD_coveredBits (segs : List (BitVec 18)) (j : Nat) :
    (coveredBits segs).getLsbD j = segs.any fun b => (segValueBits b).getLsbD j := by
  simp [coveredBits, getLsbD_foldl_or]

/-! ### Disjoint segments (R123) -/

theorem covers_of_lastCovering {segs : List (BitVec 18)} {a j : Nat} {b : BitVec 18}
    (h : lastCovering segs a j = some b) : b ∈ segs ∧ segCovers b a j = true :=
  ⟨List.mem_reverse.1 (List.mem_of_find?_eq_some h), List.find?_some (p := fun b => segCovers b a j) h⟩

section
variable {segs : List (BitVec 18)} (hdisjoint : segsDisjoint segs)
include hdisjoint

/-- Two segments of the list are the same one, or share no bit of PB and none of the field value. -/
theorem eq_or_apart {b c : BitVec 18} (hb : b ∈ segs) (hc : c ∈ segs) :
    b = c ∨ (∀ a, segPbBits b a &&& segPbBits c a = 0) ∧ segValueBits b &&& segValueBits c = 0 := by
  by_cases hbc : b = c
  · exact .inl hbc
  · have : Std.Symm fun b c : BitVec 18 =>
        (∀ a, segPbBits b a &&& segPbBits c a = 0) ∧ segValueBits b &&& segValueBits c = 0 :=
      ⟨fun b c ⟨hpb, hvalue⟩ => ⟨fun a => BitVec.and_comm _ _ ▸ hpb a, BitVec.and_comm _ _ ▸ hvalue⟩⟩
    exact .inr (List.Pairwise.forall hdisjoint hb hc hbc)

/-- At most one segment lies on a bit of PB. -/
theorem eq_of_segCovers {b c : BitVec 18} (hb : b ∈ segs) (hc : c ∈ segs) {a j : Nat} (hj : j < 8)
    (hbcov : segCovers b a j = true) (hccov : segCovers c a j = true) : b = c := by
  refine (eq_or_apart hdisjoint hb hc).resolve_right fun ⟨hpb, _⟩ => ?_
  have hbit := congrArg (BitVec.getLsbD · j) (hpb a)
  simp [getLsbD_segPbBits _ a hj, hbcov, hccov] at hbit

/-- The segment on a bit of PB is the last one there. -/
theorem lastCovering_eq_some {b : BitVec 18} (hb : b ∈ segs) {a j : Nat} (hj : j < 8)
    (hcov : segCovers b a j = true) : lastCovering segs a j = some b := by
  cases hlast : lastCovering segs a j with
  | none => exact absurd hcov (List.find?_eq_none.1 hlast b (List.mem_reverse.2 hb))
  | some c =>
    obtain ⟨hc, hccov⟩ := covers_of_lastCovering hlast
    exact congrArg some (eq_of_segCovers hdisjoint hc hb hj hccov hcov)

variable (hgood : ∀ b ∈ segs, segGood b = true)
include hgood

/-- At most one segment stands for a bit of the field value. -/
theorem eq_of_segHolds {b c : BitVec 18} (hb : b ∈ segs) (hc : c ∈ segs) {j : Nat} (hj : j < 24)
    (hbholds : segHolds b j = true) (hcholds : segHolds c j = true) : b = c := by
  refine (eq_or_apart hdisjoint hb hc).resolve_right fun ⟨_, hvalue⟩ => ?_
  have hbit := congrArg (BitVec.getLsbD · j) hvalue
  simp [getLsbD_segValueBits (hgood _ hb) hj, getLsbD_segValueBits (hgood _ hc) hj, hbholds, hcholds] at hbit

/-- A bit of the gathered value is what its one segment reads. -/
theorem getLsbD_gatherField_of_segHolds (pb : Memory) {b : BitVec 18} (hb : b ∈ segs) {j : Nat} (hj : j < 24)
    (hholds : segHolds b j = true) : (gatherField pb segs).getLsbD j =
      (pb.read (segByte b)).getLsbD (segLsb b + (j - segOff b)) := by
  have hown : (segRead pb b).getLsbD j = (pb.read (segByte b)).getLsbD (segLsb b + (j - segOff b)) := by
    rw [getLsbD_segRead (hgood b hb) hj, hholds, Bool.true_and]
  rw [getLsbD_gatherField, ← hown, Bool.eq_iff_iff, List.any_eq_true]
  constructor
  · rintro ⟨c, hc, hbit⟩
    have hcholds := hbit
    rw [getLsbD_segRead (hgood c hc) hj, Bool.and_eq_true] at hcholds
    rwa [eq_of_segHolds hdisjoint hgood hb hc hj hholds hcholds.1]
  · exact fun hbit => ⟨b, hb, hbit⟩

variable {pb : Memory} (hwf : pb.wf = true)
include hwf

/-- Where a segment lies, the scattered buffer has the bits of ACC that the segment stands for. -/
theorem getLsbD_segRead_scatterField (acc : BitVec 24) {b : BitVec 18} (hb : b ∈ segs) {j : Nat} (hj : j < 24) :
    (segRead (scatterField acc segs pb) b).getLsbD j = (segHolds b j && acc.getLsbD j) := by
  rw [getLsbD_segRead (hgood b hb) hj]
  cases hholds : segHolds b j with
  | false => rfl
  | true =>
    obtain ⟨hlo, hhi⟩ := of_decide_eq_true hholds
    obtain ⟨hfits, -⟩ := bounds_of_segGood (hgood b hb)
    have hbit : segLsb b + (j - segOff b) < 8 := by omega
    have hcov : segCovers b (segByte b) (segLsb b + (j - segOff b)) = true :=
      decide_eq_true ⟨rfl, Nat.le_add_right _ _, by omega⟩
    rw [getLsbD_read_scatterField acc hgood hwf _ hbit, lastCovering_eq_some hdisjoint hb hbit hcov, Option.elim_some,
      Nat.add_sub_cancel_left, Nat.add_sub_cancel' hlo]

/-- EXTRACT after INSERT gathers the covered bits of ACC. -/
theorem gatherField_scatterField (acc : BitVec 24) :
    gatherField (scatterField acc segs pb) segs = acc &&& coveredBits segs := by
  refine BitVec.eq_of_getLsbD_eq fun j hj => ?_
  rw [getLsbD_gatherField, BitVec.getLsbD_and, getLsbD_coveredBits, Bool.eq_iff_iff]
  simp only [Bool.and_eq_true, List.any_eq_true]
  constructor
  · rintro ⟨b, hb, hread⟩
    rw [getLsbD_segRead_scatterField hdisjoint hgood hwf acc hb hj, Bool.and_eq_true] at hread
    exact ⟨hread.2, b, hb, (getLsbD_segValueBits (hgood b hb) hj).trans hread.1⟩
  · rintro ⟨hacc, b, hb, hvalue⟩
    rw [getLsbD_segValueBits (hgood b hb) hj] at hvalue
    refine ⟨b, hb, ?_⟩
    rw [getLsbD_segRead_scatterField hdisjoint hgood hwf acc hb hj, hvalue, hacc, Bool.and_self]

/-- INSERT after EXTRACT scatters the bits that are there already. -/
theorem scatterField_gatherField : scatterField (gatherField pb segs) segs pb = pb := by
  refine eq_of_read_eq (wf_scatterField _ hgood hwf) hwf fun a => BitVec.eq_of_getLsbD_eq fun j hj => ?_
  rw [getLsbD_read_scatterField _ hgood hwf a hj]
  cases hlast : lastCovering segs a j with
  | none => rfl
  | some b =>
    obtain ⟨hb, hcov⟩ := covers_of_lastCovering hlast
    obtain ⟨rfl, hlo, hhi⟩ := of_decide_eq_true hcov
    obtain ⟨-, hfits⟩ := bounds_of_segGood (hgood b hb)
    have hholds : segHolds b (segOff b + (j - segLsb b)) = true :=
      decide_eq_true ⟨Nat.le_add_right _ _, by omega⟩
    rw [Option.elim_some, getLsbD_gatherField_of_segHolds hdisjoint hgood pb hb (by omega) hholds,
      Nat.add_sub_cancel_left, Nat.add_sub_cancel' hlo]

end

/-- Settles O40: the two commands on the descriptor's segments, one after the other in either order. -/
theorem disjointDescriptorRoundTrips : Obligations.DisjointDescriptorRoundTrips := by
  unfold Obligations.DisjointDescriptorRoundTrips
  intro start n s hwf hdesc hgood hdisjoint
  exact ⟨⟨_, _, exec_insert_of_descriptor hdesc, exec_extract_of_descriptor hdesc,
      gatherField_scatterField hdisjoint hgood hwf s.acc⟩,
    ⟨_, _, exec_extract_of_descriptor hdesc, exec_insert_of_descriptor hdesc,
      scatterField_gatherField hdisjoint hgood hwf⟩⟩

end Sys2Proof.Proofs
end

section
/-! Proofs, spec/45_serializer.md R149, R151, R158, R160, R161 and R164. The ends of SER; DESER as a function of the
record and of the state that taking the record leaves, so that nothing else of SIN can matter; and its refusals. -/

namespace Sys2Proof.Proofs

open Sys2Proof Sys2Proof.Machine Sys2Proof.Laws

/-! ### SER (R149) -/

theorem tselLegal_of_le {tsel : BitVec 3} (h : 5 ≤ tsel.toNat) : tselLegal tsel = false :=
  decide_eq_false (Nat.not_lt.2 h)

theorem serTemplate_auto (s : State) : serTemplate 0 s = mux (addrPkt s.addr) (lowNibble (s.pb.read 0)) := if_pos rfl

theorem exec_ser_of_illegal {tsel : BitVec 3} (h : tselLegal tsel = false) (s : State) :
    exec (.ser tsel) s = .next (faulted 2 s) := by
  rw [exec, execSer, h]
  rfl

theorem exec_ser_of_none {tsel : BitVec 3} {s : State} (hlegal : tselLegal tsel = true)
    (ht : serTemplate tsel s = none) : exec (.ser tsel) s = .next (faulted 5 s) := by
  rw [exec, execSer, if_pos hlegal, ht]
  rfl

/-- The framing that MODE selects (R148). -/
theorem frameBytes_wraps (s : State) (record : List Byte) : frameBytes (wraps s) record =
    if s.mode = 0 then record
    else [Config.syncPrefix 0, Config.syncPrefix 1, Config.syncPrefix 2] ++ record.map reverseBits := by
  rcases BitVec.eq_zero_or_eq_one s.mode with hm | hm
  · rw [wraps_of_raw hm, hm]
    rfl
  · rw [wraps_of_wrapped hm, hm]
    rfl

/-- Settles O44: the operand gives a template or none, or is not legal, and the reserved bits. -/
theorem serResult : Obligations.SerResult := by
  unfold Obligations.SerResult
  refine ⟨fun tsel s t ht => ?emitted, fun s hnone => exec_ser_of_none rfl ((serTemplate_auto s).trans hnone),
    fun tsel s h => exec_ser_of_illegal (tselLegal_of_le h) s,
    refusesReserved_of_row (.ser 0) (by decide) BitVec.and_self⟩
  case emitted =>
    rw [← frameBytes_wraps]
    rcases ht with ⟨rfl, hmux⟩ | rfl
    · exact exec_ser_of_template rfl ((serTemplate_auto s).trans hmux)
    · exact exec_ser_of_template (tselLegal_number t) (serTemplate_number t s)

/-! ### DESER of a record that stands in SIN (R151) -/

/-- What DESER makes of `record` in the state `u` that taking it from SIN leaves; none when no template is found. -/
def deserRecord (tsel : BitVec 3) (record : List Byte) (u : State) : Option State :=
  match decodeAddress record with
  | none => some (finishDeser 0 (flagInv8 ||| flagAddrInv) 1 u)
  | some addr =>
    (resolve tsel (addrPkt addr) (nibbleOf record 2)).map fun t =>
      let p := decodePayload t (addrPkt addr) record
      finishDeser t.number p.flags p.count (storeHeader t record { u with addr := addr, pb := u.pb.store 0 p.bytes })

/-- DESER of a record in SIN is `deserRecord` of the record, or the fault E_NOTMPL. -/
theorem exec_deser_of_holds {tsel : BitVec 3} {s : State} {record rest : List Byte} (htsel : tsel.toNat < 5)
    (hrecord : holdsRecord s record rest) : exec (.deser tsel) s =
      .next ((deserRecord tsel record { s with sin := rest }).getD (faulted 5 s)) := by
  obtain ⟨hhead, htake⟩ := headRecord_of_holds hrecord
  rw [exec, execDeser, if_pos (tselLegal_of_lt htsel), hhead, deserRecord, nibbleOf]
  cases ha : decodeAddress record with
  | none =>
    simp only [ha, dropRecord, htake]
    rfl
  | some addr =>
    simp only [ha]
    rw [show rawAt record 2 = record.getD 2 0 from rfl]
    cases ht : resolve tsel (addrPkt addr) (h84d (record.getD 2 0)) with
    | none => rfl
    | some t =>
      simp only [acceptRecord, htake]
      rfl

/-! ### The refusals of DESER (R158, R164) -/

theorem exec_deser_of_illegal {tsel : BitVec 3} (h : tselLegal tsel = false) (s : State) :
    exec (.deser tsel) s = .next (faulted 2 s) := by
  rw [exec, execDeser, h]
  rfl

/-- The packets 25, 29, 30 and 31 have no template, whatever their designation byte (R164). -/
theorem resolve_auto_none {pkt : BitVec 5} (h : pkt.toNat ∈ [25, 29, 30, 31]) (dcv : Byte) :
    resolve 0 pkt dcv = none := by
  have hpkt : pkt.toNat = 25 ∨ pkt.toNat = 29 ∨ pkt.toNat = 30 ∨ pkt.toNat = 31 := by simpa using h
  have hnot : ¬ (pkt = 26 ∨ pkt = 27 ∨ pkt = 28) := by
    rintro (rfl | rfl | rfl) <;> exact absurd h (by decide)
  rw [resolve, if_neg (by decide), if_neg fun hinv => hnot hinv.1, muxChoosesByPacketAndDesignation,
    if_neg (by omega), if_neg (by omega), if_neg (by omega), if_neg (by omega), if_neg (by omega)]

/-- Settles O50: the operand, the length of SIN and the template, each tested before the record is taken, and the
reserved bits. -/
theorem deserRefusalsTakeNothing : Obligations.DeserRefusalsTakeNothing := by
  unfold Obligations.DeserRefusalsTakeNothing
  simp only [← streamLen_eq]
  refine ⟨fun tsel s h => exec_deser_of_illegal (tselLegal_of_le h) s, fun tsel s htsel => exec_deser_of_short htsel,
    fun s record rest hrecord haddr hpkt => ?template, refusesReserved_of_row (.deser 0) (by decide) BitVec.and_self⟩
  case template =>
    obtain ⟨haddress, hpktNat⟩ := decodeAddress_of_valid haddr
    have hnone : deserRecord 0 record { s with sin := rest } = none := by
      rw [deserRecord, haddress]
      simp only [resolve_auto_none (hpktNat.symm ▸ hpkt), Option.map_none]
    rw [exec_deser_of_holds (by decide) hrecord, hnone, Option.getD_none]

/-! ### The three bytes before a record (R160) -/

/-- A fault leaves a code in ERR (R169). -/
theorem code_ne_zero (e : ErrCode) : e.code ≠ 0 := by cases e <;> decide

/-- The 42 bytes that follow the first three are a record in capture-wrapper framing, whatever the three are. -/
theorem holdsRecord_of_wrapped {s : State} {three rest : List Byte} (hmode : s.mode = 1) (hthree : three.length = 3)
    (hrest : 42 ≤ rest.length) :
    holdsRecord { s with sin := three ++ rest } ((rest.take 42).map reverseBits) (rest.drop 42) := by
  refine ⟨by simpa using hrest, .inr ⟨hmode, three, hthree, ?_⟩⟩
  simp [Function.comp_def]

/-- Settles O58: both states hold the same record and are the same once it is taken, so a DESER that completes gives
the same in both. -/
theorem incomingPrefixIsNotCompared : Obligations.IncomingPrefixIsNotCompared := by
  unfold Obligations.IncomingPrefixIsNotCompared
  intro tsel s three three' rest hmode hthree hthree' hrest htsel t h herr
  rw [exec_deser_of_holds htsel (holdsRecord_of_wrapped hmode hthree hrest)] at h
  rw [exec_deser_of_holds htsel (holdsRecord_of_wrapped hmode hthree' hrest)]
  cases hu : deserRecord tsel ((rest.take 42).map reverseBits) { s with sin := rest.drop 42 } with
  | none =>
    rw [hu] at h
    cases h
    exact absurd herr (code_ne_zero .eNotmpl)
  | some u =>
    rw [hu] at h
    exact h

/-! ### The warnings of a DESER (R161) -/

/-- A part of a record is counted exactly when one of the flags that WARN keeps is raised. -/
theorem count_eq_zero_iff_flags (t : Template) (pkt : BitVec 5) (record : List Byte) :
    (decodePayload t pkt record).count = 0 ↔ (decodePayload t pkt record).flags &&& 0xF8 = 0 := by
  have abandoned : abandonedPayload.count = 0 ↔ abandonedPayload.flags &&& 0xF8 = 0 := by decide
  cases t with
  | hdr =>
    change (decodeHeader record).count = 0 ↔ (decodeHeader record).flags &&& 0xF8 = 0
    rw [decodeHeader_flags]
    split_ifs with h <;> simp [h]
  | row => exact iff_of_true rfl BitVec.zero_and
  | trip =>
    by_cases hdc : nibbleOf record 2 = 0xFF
    · rw [decodePayload_of_invalid_designation (.inl rfl) pkt hdc]
      exact abandoned
    · rw [decodePayload_trip_count hdc, decodePayload_trip_flags hdc]
      generalize List.countP _ _ = bad
      split_ifs <;> simp [*]
  | link =>
    by_cases hdc : nibbleOf record 2 = 0xFF
    · rw [decodePayload_of_invalid_designation (.inr rfl) pkt hdc]
      exact abandoned
    · rw [decodePayload_link_count hdc, decodePayload_link_flags hdc]
      generalize List.countP _ _ = badLinks
      split_ifs <;> simp [*]

/-- The result of a DESER that counts `count` items, in the words of R161. -/
def accountsFor (count template : Nat) (s t : State) : Prop :=
  t.responses = s.responses ++ [BitVec.ofNat 32 (template + 256 * count)] ∧
    t.warn = s.warn ||| (t.stat &&& 0xF8) ∧ t.wcnt.toNat = min 0xFFFF (s.wcnt.toNat + count) ∧
    (count = 0 ↔ t.stat &&& 0xF8 = 0)

/-- `deserialized` accounts for its count when the state before it has the warning record and the responses of `s`. -/
theorem accountsFor_deserialized {flags : BitVec 8} {count : Nat} (template : Nat) {s u : State}
    (hwarn : u.warn = s.warn) (hwcnt : u.wcnt = s.wcnt) (hrsp : u.responses = s.responses)
    (hcount : count = 0 ↔ flags &&& 0xF8 = 0) : accountsFor count template s (deserialized flags count template u) := by
  refine ⟨congrArg (· ++ _) hrsp, congrArg (· ||| _) hwarn, ?saturates, hcount⟩
  case saturates =>
    have hmod : min 0xFFFF (s.wcnt.toNat + count) < 2 ^ 16 := by omega
    rw [← Nat.mod_eq_of_lt hmod, ← hwcnt]
    rfl

theorem storeHeader_warnings (t : Template) (raw : List Byte) (s : State) :
    (storeHeader t raw s).warn = s.warn ∧ (storeHeader t raw s).wcnt = s.wcnt := by
  cases t <;> exact ⟨rfl, rfl⟩

theorem number_le (t : Template) : t.number.toNat ≤ 4 := by cases t <;> decide

/-- Settles O57: a DESER that completes has dropped or accepted a record; both end in `deserialized`. -/
theorem deserAccountsForItsWarnings : Obligations.DeserAccountsForItsWarnings := by
  unfold Obligations.DeserAccountsForItsWarnings
  intro tsel s t h herr
  have nofault {e : ErrCode} (hfault : execDeser tsel s = .next (raiseFault e s)) : False := by
    cases hfault.symm.trans h
    exact code_ne_zero e herr
  rcases deser_cases tsel s with ⟨-, hf⟩ | ⟨-, ⟨-, hf⟩ | ⟨raw, -, ⟨-, hd⟩ | ⟨addr, -, ⟨-, hf⟩ | ⟨tmpl, -, ha⟩⟩⟩⟩
  · exact (nofault hf).elim
  · exact (nofault hf).elim
  · cases hd.symm.trans h
    refine ⟨1, 0, by decide, by decide, ?_⟩
    rw [dropRecord, finishDeser_eq _ _ _ _ (by decide)]
    exact accountsFor_deserialized 0 rfl rfl rfl (by decide)
  · exact (nofault hf).elim
  · cases ha.symm.trans h
    have hcount := count_decodePayload_le tmpl (addrPkt addr) raw
    refine ⟨_, tmpl.number.toNat, hcount, number_le tmpl, ?_⟩
    rw [acceptRecord, finishDeser_eq _ _ _ _ hcount]
    exact accountsFor_deserialized _ (storeHeader_warnings _ _ _).1 (storeHeader_warnings _ _ _).2
      (storeHeader_host _ _ _).2 (count_eq_zero_iff_flags tmpl (addrPkt addr) raw)

end Sys2Proof.Proofs
end

section
/-! Proofs, spec/10_state.md R13 to R27 and spec/60_exceptions.md R176. What each command can have written when it ends,
said once (`Effect`); the frames of the items of state, the table of the flags and the invariant are read off from it. -/

namespace Sys2Proof.Proofs

open Sys2Proof Sys2Proof.Machine Sys2Proof.Laws

/-! ### What a command writes -/

/-- `s` with the count of a DESER added to WCNT and its flags kept in WARN (R161). -/
def withWarnings (flags : BitVec 8) (count : Nat) (s : State) : State :=
  { s with warn := warnAfter s.warn flags, wcnt := wcntAfter s.wcnt count }

/-- `s` after a DESER with template `t` has taken the record, before the end of the command (R151). -/
def withRecord (t : Template) (addr : BitVec 8) (raw : List Byte) (s : State) : State :=
  storeHeader t raw { s with
    sin := s.sin.drop (streamLen s), addr := addr, pb := s.pb.store 0 (decodePayload t (addrPkt addr) raw).bytes }

/-- `Effect s i flags s'`: command `i` in the state `s` can come to its end in the state `s'` with the STAT `flags`. The
end itself writes STAT, ERR and the response only. `nothing` stands for the commands that answer a value, and for every
command that faults. Left open is what no frame, flag or invariant asks for: the value that EXTRACT puts into ACC, and
the flags and the count of a DESER. -/
inductive Effect (s : State) : Instr → BitVec 8 → State → Prop
  | nothing (i : Instr) : Effect s i 0 s
  | h84dec (b : BitVec 8) : Effect s (.h84dec b) (if h84d b = 0xFF then 0x01 else 0) s
  | h24dec (c : BitVec 24) : Effect s (.h24dec c) (h24decFlags (h24dec c)) s
  | regwr (r : BitVec 8) (val : BitVec 16) (n : RegName) (m : BitVec 16) (hmask : writeMask n = some m) :
      Effect s (.regwr r val) 0 (writeReg n (val &&& m) s)
  | wclr : Effect s .wclr 0 { s with warn := 0, wcnt := 0 }
  | accset (v : BitVec 24) : Effect s (.accset v) 0 { s with acc := v }
  | pbwr (idx val : BitVec 8) (hidx : idx.toNat < 40) :
      Effect s (.pbwr idx val) 0 { s with pb := s.pb.write idx.toNat val }
  | pbclr : Effect s .pbclr 0 { s with pb := s.pb.store 0 (List.replicate 40 0) }
  | fdwr (idx : BitVec 6) (last : BitVec 1) (byte : BitVec 6) (lsb wm1 : BitVec 3) (off : BitVec 5)
      (hgood : segGood (segBody last byte lsb wm1 off) = true) :
      Effect s (.fdwr idx last byte lsb wm1 off) 0
        { s with fd := s.fd.set idx.toNat ⟨true, segBody last byte lsb wm1 off⟩ idx.isLt }
  | fdclr : Effect s .fdclr 0 { s with fd := State.reset.fd }
  | extract (start : BitVec 6) (v : BitVec 24) : Effect s (.extract start) 0 { s with acc := v }
  | insert (start : BitVec 6) (n : Nat) (hdesc : isDescriptor s.fd start.toNat n) :
      Effect s (.insert start) 0 { s with pb := scatterField s.acc (runBodies s.fd start.toNat n) s.pb }
  | tripput (k : BitVec 4) (v : BitVec 18) (hslot : k.toNat < 13) :
      Effect s (.tripput k v) 0 { s with pb := s.pb.store (slotBase k.toNat) (bytesOfTriplet v) }
  | ser (tsel : BitVec 3) (t : Template) :
      Effect s (.ser tsel) 0 { s with sout := s.sout ++ frameBytes (wraps s) (recordBytes t s) }
  | drop (tsel : BitVec 3) (flags : BitVec 8) (count : Nat) :
      Effect s (.deser tsel) flags (withWarnings flags count { s with sin := s.sin.drop (streamLen s) })
  | accept (tsel : BitVec 3) (t : Template) (addr : BitVec 8) (raw : List Byte) (flags : BitVec 8) (count : Nat) :
      Effect s (.deser tsel) flags (withWarnings flags count (withRecord t addr raw s))
  | sdrop : Effect s .sdrop 0 { s with sin := s.sin.drop (streamLen s) }

/-- REGWR names a register with a write mask, or faults (R106, R107). -/
theorem exec_regwr_cases (r : BitVec 8) (val : BitVec 16) (s : State) :
    exec (.regwr r val) s = .next (faulted 3 s) ∨ ∃ n m, writeMask n = some m ∧
      exec (.regwr r val) s = .next (finished 0 0 (writeReg n (val &&& m) s)) := by
  cases hr : regOfNumber r with
  | none => exact .inl (by rw [exec, execRegwr, hr]; rfl)
  | some n =>
    cases hm : writeMask n with
    | none => exact .inl (by simp only [exec, execRegwr, hr, hm]; rfl)
    | some m => exact .inr ⟨n, m, hm, exec_regwr_of_writable hr hm val s⟩

/-- PBCLR on any buffer, canonical or not (R112). -/
theorem exec_pbclr_store (s : State) :
    exec .pbclr s = .next (finished 0 0 { s with pb := s.pb.store 0 (List.replicate 40 0) }) := by
  rw [exec, execPbclr, complete_eq_finished, Config.pbLen, State.setPb]

/-- A record with an invalid address is taken and counted as one item (R152). -/
theorem dropRecord_eq (s : State) : dropRecord s = finished (flagInv8 ||| flagAddrInv) (deserResponse 0 1)
    (withWarnings (flagInv8 ||| flagAddrInv) 1 { s with sin := s.sin.drop (streamLen s) }) := by
  rw [dropRecord, finishDeser, complete_eq_finished]
  rfl

/-- The three writes of a DESER that accepts a record, before those of its template. -/
theorem takeSin_setAddr_setPb (s : State) (n : Nat) (addr : BitVec 8) (pb : Memory) :
    ((s.takeSin n).setAddr addr).setPb pb = { s with sin := s.sin.drop n, addr := addr, pb := pb } := rfl

/-- A record with a template is taken, stored and counted (R151). -/
theorem acceptRecord_eq (t : Template) (addr : BitVec 8) (raw : List Byte) (s : State) {p : Piece}
    (hp : decodePayload t (addrPkt addr) raw = p) : acceptRecord t addr raw s =
      finished p.flags (deserResponse t.number p.count) (withWarnings p.flags p.count (withRecord t addr raw s)) := by
  rw [withRecord, hp]
  simp only [acceptRecord, hp]
  rw [finishDeser, complete_eq_finished, takeSin_setAddr_setPb]
  rfl

/-- The three ways a command ends: a fault, a REGRD that completes, or the end of R103 on what the command has
written. -/
theorem exec_ends (i : Instr) (s : State) :
    (∃ e, exec i s = .next (raiseFault e s)) ∨
    (∃ r n, i = .regrd r ∧ exec i s = .next (s.respond (readReg n s))) ∨
    ∃ flags rsp s', Effect s i flags s' ∧ exec i s = .next (finished flags rsp s') := by
  have done {flags : BitVec 8} {rsp : Word} {s' : State} (heffect : Effect s i flags s')
      (hexec : exec i s = .next (finished flags rsp s')) :
      ∃ flags rsp s', Effect s i flags s' ∧ exec i s = .next (finished flags rsp s') :=
    ⟨flags, rsp, s', heffect, hexec⟩
  cases i with
  | nop => exact .inr (.inr (done (.nothing _) (exec_nop s)))
  | regrd r =>
    cases hr : regOfNumber r with
    | none => exact .inl ⟨.eRange, exec_regrd_of_none hr s⟩
    | some n => exact .inr (.inl ⟨r, n, rfl, exec_regrd_of_some hr s⟩)
  | regwr r val =>
    rcases exec_regwr_cases r val s with hfault | ⟨n, m, hmask, hdone⟩
    · exact .inl ⟨.eRange, hfault⟩
    · exact .inr (.inr (done (.regwr r val n m hmask) hdone))
  | wclr => exact .inr (.inr (done .wclr (exec_wclr s)))
  | accset v => exact .inr (.inr (done (.accset v) (exec_accset v s)))
  | h84enc d => exact .inr (.inr (done (.nothing _) (exec_h84enc d s)))
  | h84dec b => exact .inr (.inr (done (.h84dec b) (exec_h84dec b s)))
  | h24enc v => exact .inr (.inr (done (.nothing _) (exec_h24enc v s)))
  | h24dec c => exact .inr (.inr (done (.h24dec c) (exec_h24dec c s)))
  | parenc d => exact .inr (.inr (done (.nothing _) (exec_parenc d s)))
  | pardec b => exact .inr (.inr (done (.nothing _) (exec_pardec b s)))
  | bitrev b => exact .inr (.inr (done (.nothing _) (exec_bitrev b s)))
  | pbwr idx val =>
    rcases Nat.lt_or_ge idx.toNat 40 with hlt | hge
    · exact .inr (.inr (done (.pbwr idx val hlt) (exec_pbwr_of_lt hlt val s)))
    · exact .inl ⟨.eRange, exec_pbwr_of_le hge val s⟩
  | pbrd idx =>
    rcases Nat.lt_or_ge idx.toNat 40 with hlt | hge
    · exact .inr (.inr (done (.nothing _) (exec_pbrd_of_lt hlt s)))
    · exact .inl ⟨.eRange, exec_pbrd_of_le hge s⟩
  | pbclr => exact .inr (.inr (done .pbclr (exec_pbclr_store s)))
  | fdwr idx last byte lsb wm1 off =>
    by_cases hfits : segFits (segBody last byte lsb wm1 off) = true
    · by_cases hin : segInPb (segBody last byte lsb wm1 off) = true
      · have hgood : segGood (segBody last byte lsb wm1 off) = true := Bool.and_eq_true_iff.2 ⟨hfits, hin⟩
        exact .inr (.inr (done (.fdwr idx last byte lsb wm1 off hgood) (exec_fdwr_of_good hfits hin idx s)))
      · exact .inl ⟨.eRange, exec_fdwr_of_not_inPb hfits hin idx s⟩
    · exact .inl ⟨.eOper, exec_fdwr_of_not_fits hfits idx s⟩
  | fdclr => exact .inr (.inr (done .fdclr (exec_fdclr s)))
  | extract start =>
    rcases brokenRun_or_isDescriptor s.fd start.toNat with hbroken | ⟨n, hdesc⟩
    · exact .inl ⟨.eFd, exec_extract_of_broken hbroken⟩
    · exact .inr (.inr (done (.extract start _) (exec_extract_of_descriptor hdesc)))
  | insert start =>
    rcases brokenRun_or_isDescriptor s.fd start.toNat with hbroken | ⟨n, hdesc⟩
    · exact .inl ⟨.eFd, exec_insert_of_broken hbroken⟩
    · exact .inr (.inr (done (.insert start n hdesc) (exec_insert_of_descriptor hdesc)))
  | tripget k =>
    rcases Nat.lt_or_ge k.toNat 13 with hlt | hge
    · exact .inr (.inr (done (.nothing _) (exec_tripget_of_lt hlt s)))
    · exact .inl ⟨.eRange, exec_tripget_of_le hge s⟩
  | tripput k v =>
    rcases Nat.lt_or_ge k.toNat 13 with hlt | hge
    · exact .inr (.inr (done (.tripput k v hlt) (exec_tripput_of_lt hlt v s)))
    · exact .inl ⟨.eRange, exec_tripput_of_le hge v s⟩
  | ser tsel =>
    cases hlegal : tselLegal tsel with
    | false => exact .inl ⟨.eOper, exec_ser_of_illegal hlegal s⟩
    | true =>
      cases ht : serTemplate tsel s with
      | none => exact .inl ⟨.eNotmpl, exec_ser_of_none hlegal ht⟩
      | some t => exact .inr (.inr (done (.ser tsel t) (exec_ser_of_template hlegal ht)))
  | deser tsel =>
    rcases deser_cases tsel s with ⟨-, hf⟩ | ⟨-, ⟨-, hf⟩ | ⟨raw, -, ⟨-, hd⟩ | ⟨addr, -, ⟨-, hf⟩ | ⟨t, -, ha⟩⟩⟩⟩
    · exact .inl ⟨_, hf⟩
    · exact .inl ⟨_, hf⟩
    · exact .inr (.inr (done (.drop tsel _ _) (dropRecord_eq s ▸ hd)))
    · exact .inl ⟨_, hf⟩
    · exact .inr (.inr (done (.accept tsel t addr raw _ _) (acceptRecord_eq t addr raw s rfl ▸ ha)))
  | sdrop =>
    rcases Nat.lt_or_ge s.sin.length (streamLen s) with hlt | hge
    · exact .inl ⟨.eTrunc, exec_sdrop_of_lt hlt⟩
    · exact .inr (.inr (done .sdrop (exec_sdrop_of_le hge)))

/-- A command leaves what it has written, apart from STAT, ERR and the response. -/
theorem exists_effect {i : Instr} {s t : State} (h : exec i s = .next t) : ∃ flags s', Effect s i flags s' ∧
    t = { s' with stat := t.stat, err := t.err, responses := t.responses } := by
  rcases exec_ends i s with ⟨e, hfault⟩ | ⟨r, n, -, hread⟩ | ⟨flags, rsp, s', heffect, hdone⟩
  · cases hfault.symm.trans h
    exact ⟨0, s, .nothing i, rfl⟩
  · cases hread.symm.trans h
    exact ⟨0, s, .nothing i, rfl⟩
  · cases hdone.symm.trans h
    exact ⟨flags, s', heffect, rfl⟩

/-! ### The STAT flags (R176) -/

/-- The two flags of H24DEC are never up together: a word that is not correctable has no other bit in its result. -/
theorem h24decFlags_h24dec (c : BitVec 24) : h24decFlags (h24dec c) = 0 ∨ h24decFlags (h24dec c) = 0x02 ∨
    h24decFlags (h24dec c) = 0x04 := by
  cases hunc : (h24dec c).getLsbD 31 with
  | true =>
    rw [h24dec_of_bit31 hunc]
    exact .inr (.inr (by decide))
  | false =>
    rw [h24decFlags, hunc]
    cases (h24dec c).getLsbD 30 with
    | false => exact .inl (by decide)
    | true => exact .inr (.inl (by decide))

/-- The commands that can end with a flag up. -/
theorem Effect.flags_cases {s s' : State} {i : Instr} {flags : BitVec 8} (h : Effect s i flags s') (hflags : flags ≠ 0) :
    (∃ b, i = .h84dec b ∧ flags = 0x01) ∨ (∃ c, i = .h24dec c ∧ (flags = 0x02 ∨ flags = 0x04)) ∨
      ∃ k, i = .deser k := by
  cases h with
  | h84dec b =>
    split_ifs at hflags with hinv
    · exact .inl ⟨b, rfl, if_pos hinv⟩
    · exact absurd rfl hflags
  | h24dec c => exact .inr (.inl ⟨c, rfl, (h24decFlags_h24dec c).resolve_left hflags⟩)
  | drop tsel => exact .inr (.inr ⟨tsel, rfl⟩)
  | accept tsel => exact .inr (.inr ⟨tsel, rfl⟩)
  | _ => exact absurd rfl hflags

/-- Settles O17: a fault clears STAT, and a command that completes leaves the flags of its effect. -/
theorem onlyThreeCommandsSetStatFlags : Obligations.OnlyThreeCommandsSetStatFlags := by
  unfold Obligations.OnlyThreeCommandsSetStatFlags
  intro i s t hi h hstat
  rcases exec_ends i s with ⟨e, hfault⟩ | ⟨r, n, hregrd, -⟩ | ⟨flags, rsp, s', heffect, hdone⟩
  · cases hfault.symm.trans h
    exact absurd rfl hstat
  · exact absurd hregrd (hi r)
  · cases hdone.symm.trans h
    exact heffect.flags_cases hstat

/-! ### The frames -/

/-- The header registers are all that a record stores beside PB and ADDR (R151, R155). -/
theorem storeHeader_frame (t : Template) (raw : List Byte) (s : State) : storeHeader t raw s = { s with
    page := (storeHeader t raw s).page
    sub := (storeHeader t raw s).sub
    ctl := (storeHeader t raw s).ctl } := by
  cases t <;> rfl

/-- REGWR writes none of the items but its five registers (R107). -/
theorem writeReg_frame (n : RegName) (v : BitVec 16) (s : State) : writeReg n v s = { s with
    mode := (writeReg n v s).mode
    addr := (writeReg n v s).addr
    page := (writeReg n v s).page
    sub := (writeReg n v s).sub
    ctl := (writeReg n v s).ctl } := by
  cases n <;> rfl

section
variable {s s' : State} {i : Instr} {flags : BitVec 8} (h : Effect s i flags s')
include h

theorem Effect.mode_eq (hi : ∀ r v, i ≠ .regwr r v) : s'.mode = s.mode := by
  cases h with
  | regwr r val => exact absurd rfl (hi r val)
  | accept tsel t addr raw => rw [withRecord, storeHeader_frame]; rfl
  | _ => rfl

theorem Effect.warnings_eq (hdeser : ∀ k, i ≠ .deser k) (hwclr : i ≠ .wclr) :
    s'.warn = s.warn ∧ s'.wcnt = s.wcnt := by
  cases h with
  | regwr r val n m => rw [writeReg_frame]; exact ⟨rfl, rfl⟩
  | wclr => exact absurd rfl hwclr
  | drop tsel => exact absurd rfl (hdeser tsel)
  | accept tsel => exact absurd rfl (hdeser tsel)
  | _ => exact ⟨rfl, rfl⟩

theorem Effect.header_eq (hregwr : ∀ r v, i ≠ .regwr r v) (hdeser : ∀ k, i ≠ .deser k) :
    s'.addr = s.addr ∧ s'.page = s.page ∧ s'.sub = s.sub ∧ s'.ctl = s.ctl := by
  cases h with
  | regwr r val => exact absurd rfl (hregwr r val)
  | drop tsel => exact absurd rfl (hdeser tsel)
  | accept tsel => exact absurd rfl (hdeser tsel)
  | _ => exact ⟨rfl, rfl, rfl, rfl⟩

theorem Effect.acc_eq (haccset : ∀ v, i ≠ .accset v) (hextract : ∀ k, i ≠ .extract k) : s'.acc = s.acc := by
  cases h with
  | regwr r val n m => rw [writeReg_frame]
  | accset v => exact absurd rfl (haccset v)
  | extract start => exact absurd rfl (hextract start)
  | accept tsel t addr raw => rw [withRecord, storeHeader_frame]; rfl
  | _ => rfl

theorem Effect.pb_eq (hpbwr : ∀ a v, i ≠ .pbwr a v) (hpbclr : i ≠ .pbclr) (hinsert : ∀ k, i ≠ .insert k)
    (htripput : ∀ k v, i ≠ .tripput k v) (hdeser : ∀ k, i ≠ .deser k) : s'.pb = s.pb := by
  cases h with
  | regwr r val n m => rw [writeReg_frame]
  | pbwr idx val => exact absurd rfl (hpbwr idx val)
  | pbclr => exact absurd rfl hpbclr
  | insert start => exact absurd rfl (hinsert start)
  | tripput k v => exact absurd rfl (htripput k v)
  | accept tsel => exact absurd rfl (hdeser tsel)
  | _ => rfl

theorem Effect.fd_eq (hfdwr : ∀ a b c d e f, i ≠ .fdwr a b c d e f) (hfdclr : i ≠ .fdclr) : s'.fd = s.fd := by
  cases h with
  | regwr r val n m => rw [writeReg_frame]
  | fdwr idx last byte lsb wm1 off => exact absurd rfl (hfdwr idx last byte lsb wm1 off)
  | fdclr => exact absurd rfl hfdclr
  | accept tsel t addr raw => rw [withRecord, storeHeader_frame]; rfl
  | _ => rfl

theorem Effect.sin_eq (hdeser : ∀ k, i ≠ .deser k) (hsdrop : i ≠ .sdrop) : s'.sin = s.sin := by
  cases h with
  | regwr r val n m => rw [writeReg_frame]
  | drop tsel => exact absurd rfl (hdeser tsel)
  | accept tsel => exact absurd rfl (hdeser tsel)
  | sdrop => exact absurd rfl hsdrop
  | _ => rfl

/-- Bytes leave SIN at its head only (R13). -/
theorem Effect.sin_drop : ∃ n, s'.sin = s.sin.drop n := by
  cases h with
  | regwr r val n m => exact ⟨0, by rw [writeReg_frame]; rfl⟩
  | drop tsel => exact ⟨streamLen s, rfl⟩
  | accept tsel t addr raw => exact ⟨streamLen s, by rw [withRecord, storeHeader_frame]; rfl⟩
  | sdrop => exact ⟨streamLen s, rfl⟩
  | _ => exact ⟨0, rfl⟩

theorem Effect.sout_eq (hser : ∀ k, i ≠ .ser k) : s'.sout = s.sout := by
  cases h with
  | regwr r val n m => rw [writeReg_frame]
  | ser tsel => exact absurd rfl (hser tsel)
  | accept tsel t addr raw => rw [withRecord, storeHeader_frame]; rfl
  | _ => rfl

/-- SOUT grows by nothing, or by the framed record of a SER. -/
theorem Effect.sout_append : s'.sout = s.sout ∨
    ∃ t, s'.sout = s.sout ++ frameBytes (wraps s) (recordBytes t s) := by
  by_cases hser : ∃ k, i = .ser k
  · obtain ⟨k, rfl⟩ := hser
    cases h with
    | nothing => exact .inl rfl
    | ser tsel t => exact .inr ⟨t, rfl⟩
  · exact .inl (h.sout_eq fun k hk => hser ⟨k, hk⟩)

end

/-- Settles O18: the frames of the registers, one after the other. -/
theorem registersAreWrittenOnlyByTheirCommands : Obligations.RegistersAreWrittenOnlyByTheirCommands := by
  unfold Obligations.RegistersAreWrittenOnlyByTheirCommands
  intro i s t h
  obtain ⟨flags, s', heffect, ht⟩ := exists_effect h
  rw [ht]
  exact ⟨heffect.mode_eq, heffect.warnings_eq, heffect.header_eq, heffect.acc_eq⟩

/-- The bytes that a SER emits in each framing (R135, R148). -/
theorem length_emitted (t : Template) (s : State) :
    (s.mode = 0 ∧ (frameBytes (wraps s) (recordBytes t s)).length = 42) ∨
      (s.mode = 1 ∧ (frameBytes (wraps s) (recordBytes t s)).length = 45) := by
  rw [length_frameBytes s (length_recordBytes t s)]
  rcases BitVec.eq_zero_or_eq_one s.mode with hm | hm
  · exact .inl ⟨hm, if_pos hm⟩
  · exact .inr ⟨hm, if_neg (by rw [hm]; decide)⟩

/-- Settles O19: the frames of the memories and the streams, and the growth of SOUT by the length of a framed record. -/
theorem memoriesAndStreamsAreWrittenOnlyByTheirCommands :
    Obligations.MemoriesAndStreamsAreWrittenOnlyByTheirCommands := by
  unfold Obligations.MemoriesAndStreamsAreWrittenOnlyByTheirCommands
  intro i s t h
  obtain ⟨flags, s', heffect, ht⟩ := exists_effect h
  rw [ht]
  refine ⟨heffect.pb_eq, heffect.fd_eq, heffect.sin_eq, heffect.sin_drop, heffect.sout_eq, ?grows⟩
  case grows =>
    rcases heffect.sout_append with hkeep | ⟨tmpl, hgrow⟩
    · exact ⟨[], hkeep.trans (List.append_nil _).symm, .inl rfl⟩
    · exact ⟨_, hgrow, .inr (length_emitted tmpl s)⟩

end Sys2Proof.Proofs
end

section
/-! Proofs, spec/10_state.md R33, spec/20_memory.md R41 and spec/70_reset_and_hazards.md R198, R199. The invariant, kept
by what every command writes and so by every step; the host's other events; and a script run event by event. -/

namespace Sys2Proof.Proofs

open Sys2Proof Sys2Proof.Machine Sys2Proof.Laws

/-! ### The descriptor entries (R117) -/

/-- `fdGood` entry by entry; an index past the end reads as an entry that is not valid. -/
theorem fdGood_iff (fd : Vector FdEntry Config.fdLen) :
    fdGood fd = true ↔ ∀ i, (fdAt fd i).valid = true → segGood (fdAt fd i).body = true := by
  have hentry (e : FdEntry) : (!e.valid || segGood e.body) = true ↔ (e.valid = true → segGood e.body = true) := by
    cases e.valid <;> simp
  simp only [fdGood, List.all_eq_true, hentry]
  constructor
  · intro h i hvalid
    by_cases hi : i < fd.toList.length
    · rw [fdAt, List.getD_eq_getElem _ _ hi] at hvalid ⊢
      exact h _ (List.getElem_mem hi) hvalid
    · rw [fdAt, List.getD_eq_default _ _ (Nat.le_of_not_lt hi)] at hvalid
      exact absurd hvalid Bool.false_ne_true
  · intro h e he
    obtain ⟨i, hi, rfl⟩ := List.mem_iff_getElem.1 he
    have hgood := h i
    rwa [fdAt, List.getD_eq_getElem _ _ hi] at hgood

theorem fdGood_reset : fdGood State.reset.fd = true := by
  rw [fdGood_iff]
  intro i hvalid
  rw [fdAt_reset] at hvalid
  exact absurd hvalid Bool.false_ne_true

theorem fdGood_set {fd : Vector FdEntry Config.fdLen} (hfd : fdGood fd = true) (i : BitVec 6) {body : BitVec 18}
    (hbody : segGood body = true) : fdGood (fd.set i.toNat ⟨true, body⟩ i.isLt) = true := by
  rw [fdGood_iff] at hfd ⊢
  intro j
  rw [fdAt_set]
  split_ifs
  · exact fun _ => hbody
  · exact hfd j

/-- The segments of a descriptor are entries of FD that are valid. -/
theorem segGood_of_mem_runBodies {fd : Vector FdEntry Config.fdLen} {start n : Nat} (hfd : fdGood fd = true)
    (hdesc : isDescriptor fd start n) : ∀ b ∈ runBodies fd start n, segGood b = true := by
  obtain ⟨-, hopen, hlast, -⟩ := hdesc
  intro b hb
  obtain ⟨k, hk, rfl⟩ := List.mem_map.1 hb
  refine (fdGood_iff fd).1 hfd _ ?_
  rcases Nat.lt_succ_iff_lt_or_eq.1 (List.mem_range.1 hk) with hlt | rfl
  · exact (hopen k hlt).1
  · exact hlast

/-! ### The reserved register bits (R22, R26) -/

/-- WARN takes bits 7:3 only. -/
theorem warnAfter_and_low {warn : BitVec 8} (h : warn &&& 0x07 = 0) (flags : BitVec 8) :
    warnAfter warn flags &&& 0x07 = 0 := by
  have hmask : warnMask &&& 0x07 = 0 := by decide
  rw [warnAfter, BitVec.and_comm, BitVec.and_or_distrib_left, BitVec.and_comm, h, BitVec.and_comm, BitVec.and_assoc,
    hmask]
  exact BitVec.zero_or.trans BitVec.and_zero

/-- The four parts of SUB in a header record lie in the bits that exist (R155). -/
theorem headerSub_and_reserved (record : List Byte) : headerSub record &&& ~~~subMask = 0 := by
  have part1 (n : BitVec 4) : ~~~subMask &&& n.setWidth 16 = 0 := by revert n; decide
  have part2 (n : BitVec 4) : ~~~subMask &&& (n &&& 7).setWidth 16 <<< 4 = 0 := by revert n; decide
  have part3 (n : BitVec 4) : ~~~subMask &&& n.setWidth 16 <<< 8 = 0 := by revert n; decide
  have part4 (n : BitVec 4) : ~~~subMask &&& (n &&& 3).setWidth 16 <<< 12 = 0 := by revert n; decide
  rw [headerSub, BitVec.and_comm]
  simp only [BitVec.and_or_distrib_left, part1, part2, part3, part4]
  rfl

theorem writeReg_sub {n : RegName} {m : BitVec 16} (hmask : writeMask n = some m) (val : BitVec 16) {s : State}
    (hsub : s.sub &&& ~~~subMask = 0) : (writeReg n (val &&& m) s).sub &&& ~~~subMask = 0 := by
  cases n with
  | sub =>
    cases hmask
    change val &&& subMask &&& ~~~subMask = 0
    rw [BitVec.and_assoc, BitVec.and_not_self]
    exact BitVec.and_zero
  | _ => exact hsub

theorem storeHeader_sub (t : Template) (record : List Byte) {s : State} (hsub : s.sub &&& ~~~subMask = 0) :
    (storeHeader t record s).sub &&& ~~~subMask = 0 := by
  cases t with
  | hdr => exact headerSub_and_reserved record
  | _ => exact hsub

/-! ### What every command keeps -/

section
variable {s s' : State} {i : Instr} {flags : BitVec 8} (h : Effect s i flags s')
include h

/-- Every write of PB is inside PB[0..39]: those of INSERT since the entries of FD are well-formed. -/
theorem Effect.wf_pb (hwf : s.pb.wf = true) (hfd : fdGood s.fd = true) : s'.pb.wf = true := by
  cases h with
  | regwr r val n m => rwa [writeReg_frame]
  | pbwr idx val hidx => exact wf_write hwf hidx val
  | pbclr =>
    have hlen : 0 + (List.replicate 40 (0 : Byte)).length ≤ 40 := by rw [List.length_replicate]
    dsimp only
    exact wf_store hwf _ hlen
  | insert start n hdesc => exact wf_scatterField s.acc (segGood_of_mem_runBodies hfd hdesc) hwf
  | tripput k v hslot => exact wf_store hwf _ (show 1 + 3 * k.toNat + 3 ≤ 40 by omega)
  | accept tsel t addr raw =>
    rw [withRecord, storeHeader_frame]
    exact wf_store hwf _ (by rw [length_decodePayload])
  | _ => exact hwf

theorem Effect.fd_good (hfd : fdGood s.fd = true) : fdGood s'.fd = true := by
  cases h with
  | regwr r val n m => rwa [writeReg_frame]
  | fdwr idx last byte lsb wm1 off hgood => exact fdGood_set hfd idx hgood
  | fdclr => exact fdGood_reset
  | accept tsel t addr raw => rwa [withRecord, storeHeader_frame]
  | _ => exact hfd

theorem Effect.warn_low (hwarn : s.warn &&& 0x07 = 0) : s'.warn &&& 0x07 = 0 := by
  cases h with
  | regwr r val n m => rwa [writeReg_frame]
  | wclr => exact BitVec.zero_and
  | drop tsel => exact warnAfter_and_low hwarn flags
  | accept tsel t addr raw =>
    rw [withRecord, storeHeader_frame]
    exact warnAfter_and_low hwarn flags
  | _ => exact hwarn

theorem Effect.sub_reserved (hsub : s.sub &&& ~~~subMask = 0) : s'.sub &&& ~~~subMask = 0 := by
  cases h with
  | regwr r val n m hmask => exact writeReg_sub hmask val hsub
  | accept tsel t addr raw => exact storeHeader_sub t raw hsub
  | _ => exact hsub

end

theorem code_ne_seven (e : ErrCode) : e.code ≠ 7 := by cases e <;> decide

/-- ERR is 0, or one of the six codes, or what it was (R20, R21, R169). -/
theorem err_ne_seven_of_exec {i : Instr} {s t : State} (h : exec i s = .next t) (herr : s.err ≠ 7) : t.err ≠ 7 := by
  rcases exec_ends i s with ⟨e, hfault⟩ | ⟨r, n, -, hread⟩ | ⟨flags, rsp, s', -, hdone⟩
  · cases hfault.symm.trans h
    exact code_ne_seven e
  · cases hread.symm.trans h
    exact herr
  · cases hdone.symm.trans h
    exact (by decide : (0 : BitVec 3) ≠ 7)

theorem inv_of_exec {i : Instr} {s t : State} (hinv : s.inv = true) (h : exec i s = .next t) : t.inv = true := by
  obtain ⟨hwf, hfd, hwarn, hsub, herr⟩ := (inv_iff s).1 hinv
  obtain ⟨flags, s', heffect, ht⟩ := exists_effect h
  refine (inv_iff t).2 ⟨?_, ?_, ?_, ?_, err_ne_seven_of_exec h herr⟩
  · exact ht ▸ heffect.wf_pb hwf hfd
  · exact ht ▸ heffect.fd_good hfd
  · exact ht ▸ heffect.warn_low hwarn
  · exact ht ▸ heffect.sub_reserved hsub

/-- A decoding fault writes none of the items but ERR, and that with its code (R172). -/
theorem inv_raiseFault (e : ErrCode) {s : State} (hinv : s.inv = true) : (raiseFault e s).inv = true := by
  obtain ⟨hwf, hfd, hwarn, hsub, -⟩ := (inv_iff s).1 hinv
  exact (inv_iff _).2 ⟨hwf, hfd, hwarn, hsub, code_ne_seven e⟩

theorem inv_of_runCommand {w : Word} {s t : State} (hinv : s.inv = true) (h : runCommand w s = .next t) :
    t.inv = true := by
  unfold runCommand at h
  cases hd : decode w with
  | ok i =>
    rw [hd] at h
    exact inv_of_exec hinv h
  | eOpc =>
    rw [hd] at h
    cases h
    exact inv_raiseFault .eOpc hinv
  | eOper =>
    rw [hd] at h
    cases h
    exact inv_raiseFault .eOper hinv

/-! ### Every event of the host -/

/-- The invariant does not read the streams and the two fields of the model's own. -/
theorem inv_withHost (s : State) (sin : List Byte) (port : List HostEvent) (responses : List Word) :
    State.inv { s with sin := sin, port := port, responses := responses } = s.inv := rfl

/-- Settles O13: the buffer is empty, no entry is valid, and the registers are 0. -/
theorem resetMeetsTheInvariant : Obligations.ResetMeetsTheInvariant := by
  unfold Obligations.ResetMeetsTheInvariant
  exact (inv_iff State.reset).2 ⟨rfl, fdGood_reset, BitVec.zero_and, BitVec.zero_and, by decide⟩

/-- An appended byte goes to the tail of SIN (R41 b). -/
theorem step_of_append {s : State} {b : Byte} {rest : List HostEvent} (hp : s.port = .append b :: rest) :
    step s = .next { s with port := rest, sin := s.sin ++ [b] } := by
  rw [step, hp]
  rfl

/-- With no event the block holds its state (R183). -/
theorem step_of_idle {s : State} (hp : s.port = []) : step s = .next s := by rw [step, hp]

/-- Settles O14: the step by the host's next event, a command by what commands keep, reset by the reset state. -/
theorem everyStepKeepsTheInvariant : Obligations.EveryStepKeepsTheInvariant := by
  unfold Obligations.EveryStepKeepsTheInvariant
  intro s t hinv h
  rcases hp : s.port with _ | ⟨_ | _ | _, rest⟩
  case nil =>
    cases (step_of_idle hp).symm.trans h
    exact hinv
  case cons.command w =>
    rw [step_of_command hp] at h
    exact inv_of_runCommand ((inv_withHost s s.sin rest s.responses).trans hinv) h
  case cons.append b =>
    cases (step_of_append hp).symm.trans h
    exact (inv_withHost s _ rest s.responses).trans hinv
  case cons.reset =>
    cases (step_of_reset hp).symm.trans h
    exact (inv_withHost State.reset [] rest s.responses).trans resetMeetsTheInvariant

/-- Settles O7: a word that decodes is run as its command. -/
theorem stepRunsTheDecodedCommand : Obligations.StepRunsTheDecodedCommand := by
  unfold Obligations.StepRunsTheDecodedCommand
  intro s w rest i hp hd
  rw [step_of_command hp, runCommand, hd]

/-- Settles O8: the steps of an append, a reset and an empty port. -/
theorem hostEventsAndIdleStepInTheModel : Obligations.HostEventsAndIdleStepInTheModel := by
  unfold Obligations.HostEventsAndIdleStepInTheModel
  exact ⟨fun s b rest hp => step_of_append hp, fun s rest hp => ⟨_, step_of_reset hp, rfl, rfl⟩,
    fun s hp => step_of_idle hp⟩

/-! ### A script of the host (R198, R199) -/

/-- A step takes the first event, which is answered once if it is a command word. -/
theorem step_of_event {s : State} {e : HostEvent} {rest : List HostEvent} (hp : s.port = e :: rest) :
    ∃ t, step s = .next t ∧ t.port = rest ∧
      t.responses.length + commandCount rest = s.responses.length + commandCount (e :: rest) := by
  cases e with
  | command w =>
    obtain ⟨t, r, hnext, hport, hrsp⟩ := respondsOnce_runCommand w { s with port := rest }
    refine ⟨t, (step_of_command hp).trans hnext, hport, ?_⟩
    simp only [hrsp, List.length_append, List.length_singleton, commandCount]
    omega
  | append b => exact ⟨_, step_of_append hp, rfl, rfl⟩
  | reset => exact ⟨_, step_of_reset hp, rfl, rfl⟩

theorem run_succ_of_step {M : Host.Core} {s t : M.State} (h : M.step s = .next t) (n : Nat) :
    M.run (n + 1) s = M.run n t := by
  rw [Host.Core.run, h]

/-- Settles O12, by induction on the events at the port. -/
theorem everyHostScriptRunsToItsEnd : Obligations.EveryHostScriptRunsToItsEnd := by
  unfold Obligations.EveryHostScriptRunsToItsEnd
  intro s
  generalize hp : s.port = events
  induction events generalizing s with
  | nil => exact ⟨s, rfl, hp, rfl⟩
  | cons e rest ih =>
    obtain ⟨u, hstep, hport, hcount⟩ := step_of_event hp
    obtain ⟨t, hrun, hempty, hrsp⟩ := ih u hport
    exact ⟨t, (run_succ_of_step (M := Sys2Proof.core) hstep rest.length).trans hrun, hempty, hrsp.trans hcount⟩

end Sys2Proof.Proofs
end
